-- ==== Sys2Proof/Word.lean ====
section
/-!
DEFINITION. The widths of the block's values (00_scope.md R9, R10, R12; 10_state.md R19 to R27).
-/

namespace Sys2Proof

/-- One byte: a command word, a container byte, a payload byte (20_memory.md R44). -/
abbrev Byte := BitVec 8

/-- A `POS_W` = 32 bit unsigned value: `tapePos`, `tapeLength`, `tapeFilled` (00_scope.md R10). -/
abbrev Pos := BitVec 32

/-- A `CNT_W` = 24 bit unsigned value: `cyclesLeft`, `halfwayCycles` (00_scope.md R9). -/
abbrev Cnt := BitVec 24

/-- A two-bit signal register: `sigOut` or `sigIn` (10_state.md R26, R27). -/
abbrev Sig := BitVec 2

end Sys2Proof
end

