-- ==== Sys2Proof/Config.lean ====
section
/-!
DEFINITION. The implementation parameters (00_scope.md R6 to R8) and the one free value (20_memory.md R39).
-/

namespace Sys2Proof

/-- What a truncated load leaves (00_scope.md R6). -/
inductive TruncPolicy where
  /-- Leave "no tape loaded" (40_container_parser.md R85). -/
  | reject
  /-- Keep the partial buffer with the declared length (40_container_parser.md R86). -/
  | legacy
deriving DecidableEq, Repr

/-- The result codes of LOAD and SAVE (30_encoding.md R61, 60_exceptions.md R116). -/
inductive ErrorState where
  | none
  | fileNotFound
  | fileNotTAP
  | error
  | tapTooShort
deriving DecidableEq, Repr

/-- The block's implementation parameters; R11 says there is no other. -/
structure Config where
  /-- `TRUNC_POLICY` (00_scope.md R6). -/
  truncPolicy : TruncPolicy
  /-- `TAPE_CAPACITY`, in bytes (00_scope.md R7). -/
  tapeCapacity : Nat
  /-- `SAVE_ERR` (00_scope.md R8). -/
  saveErr : ErrorState
deriving DecidableEq, Repr

/-- The ranges R7 and R8 give the parameters. -/
def Config.wf (c : Config) : Bool :=
  decide (c.tapeCapacity ≤ 2 ^ 32 - 1) && decide (c.saveErr ≠ .none)

/-- This spec's values: REJECT, `2^32 − 1`, Error (00_scope.md R6 to R8). -/
def Config.spec : Config :=
  { truncPolicy := .reject, tapeCapacity := 2 ^ 32 - 1, saveErr := .error }

/-- The indeterminate payload bytes of a truncated load under LEGACY: the `n`-th draw is any byte, under no law
(00_scope.md R13 `Draw`, 20_memory.md R39, 93_implementation_defined.md I1). A free value: it has no body, so
nothing can be proved of it (DESIGN CHOICE, log 5). -/
opaque Config.drawByte : Nat → Byte

end Sys2Proof
end

