-- ==== Sys2Proof/Syntax.lean ====
section
/-!
DEFINITION. The rows of spec/opcode_table.json as one inductive: six commands of the host and three payload
symbols (30_encoding.md R55, R71 to R73).
-/

namespace Sys2Proof

/-- The deck's button selection (10_state.md R25). The reserved codes 6 and 7 have no constructor: the register
never holds them (30_encoding.md R58, R60). -/
inductive Mode where
  | none
  | play
  | stop
  | pause
  | record
  | done
deriving DecidableEq, Repr

/-- One constructor per row of the opcode table. The first six are commands (30_encoding.md R55), the last
three are payload symbols (30_encoding.md R71 to R73), which UPDATE decodes at the cursor. -/
inductive Instr where
  /-- LOAD (40_container_parser.md R77). Its source argument is the input port `src`, not a field of the word. -/
  | load
  /-- SAVE (40_container_parser.md R90). -/
  | save
  /-- RESET, the cursor reset (42_interface.md R111). -/
  | reset
  /-- SETBTN with its mode (42_interface.md R112). -/
  | setbtn (m : Mode)
  /-- UPDATE (41_pulse_player.md R92). -/
  | update
  /-- SIGNALS with the host's Motor and Write flags (42_interface.md R110, 30_encoding.md R57). -/
  | signals (motor write : Bool)
  /-- PULSE_SHORT: the payload byte `b`, not `0x00` (30_encoding.md R71). -/
  | pulseShort (b : Byte)
  /-- ESC_V1: `0x00 b0 b1 b2` when `tapVersion = 1` (30_encoding.md R72). -/
  | escV1 (b0 b1 b2 : Byte)
  /-- ESC_FIXED: `0x00` when `tapVersion ≠ 1` (30_encoding.md R73). -/
  | escFixed
deriving DecidableEq, Repr

/-- Why a command word selects no operation. -/
inductive CommandError where
  /-- `op` is 0x0 or 0x7 to 0xF (30_encoding.md R59). -/
  | reservedOpcode
  /-- The operand is reserved (30_encoding.md R58). -/
  | reservedOperand
deriving DecidableEq, Repr

/-- A complete payload symbol, as the symbol decoder answers it (30_encoding.md R74). -/
inductive Symbol where
  | short (b : Byte)
  | escV1 (b0 b1 b2 : Byte)
  | escFixed
deriving DecidableEq, Repr

end Sys2Proof
end

