-- ==== Sys2Proof/Machine/State.lean ====
section
/-!
DEFINITION. The state of the block, its outcomes, and its power-on reset (10_state.md, 70_reset_and_hazards.md R131).
-/

namespace Sys2Proof.Machine

/-- The payload buffer as (index, byte) pairs (20_memory.md R36). An index that is not listed holds no byte that
LOAD wrote: it reads as no value, which the payload read turns into a draw or a fault (20_memory.md R39). -/
abbrev Memory := List Host.Cell

/-- The source argument of LOAD (30_encoding.md R53): it cannot be opened, or it yields a finite byte sequence
(20_memory.md R37). -/
inductive Source where
  | notFound
  | stream (bytes : List Byte)
deriving DecidableEq, Repr

/-- One operation the host issues: the command word, and the source argument that LOAD alone reads
(30_encoding.md R53). -/
structure Request where
  cmd : Byte
  src : Source
deriving DecidableEq, Repr

/-- A command word the block refused, and why (30_encoding.md R58, R59). -/
structure RefusedCommand where
  cmd : Byte
  reason : CommandError
deriving DecidableEq, Repr

/-- The handler status of UPDATE (30_encoding.md R65). -/
inductive HandlerStatus where
  | none
  | running
  | notHandled
  | done
deriving DecidableEq, Repr

/-- UPDATE's position result: −1 or a position (30_encoding.md R64). -/
inductive UpdatePos where
  | minus1
  | pos (p : Pos)
deriving DecidableEq, Repr

/-- What the last operation delivered on the result outputs (30_encoding.md R53). -/
inductive Result where
  /-- RESET and SETBTN return nothing; nor has anything been returned at power-on. -/
  | nothing
  /-- LOAD: `err` and the release event `rel`. -/
  | load (err : ErrorState) (rel : Bool)
  /-- SAVE: `err`. -/
  | save (err : ErrorState)
  /-- UPDATE: `upd_m1`, `upd_pos` and `hstat`. -/
  | update (pos : UpdatePos) (hstat : HandlerStatus)
  /-- SIGNALS: `sig`. -/
  | signals (sig : Sig)
deriving DecidableEq, Repr

/-- The machine. The ten fields of the first group are the architectural state, exactly the tuple of 10_state.md
R29; the second group is the model's own (parameters, ports, the draw counter and the mark of
refusals: DESIGN CHOICE, log 1 to 5 and 10). -/
structure State where
  /-- The payload buffer (10_state.md R19). -/
  tapeData : Memory
  /-- The payload's length in bytes (10_state.md R19). -/
  tapeLength : Pos
  /-- The leading payload bytes that LOAD wrote; hidden (10_state.md R20). -/
  tapeFilled : Pos
  /-- Byte 12 of the last container whose header reached step 2 of LOAD (10_state.md R21). -/
  tapVersion : Byte
  /-- The index of the next payload byte to fetch (10_state.md R22). -/
  tapePos : Pos
  /-- The countdown of the current pulse (10_state.md R23). -/
  cyclesLeft : Cnt
  /-- The value of `cyclesLeft` below which `Read` is asserted (10_state.md R24). -/
  halfwayCycles : Cnt
  /-- The button selection (10_state.md R25). -/
  mode : Mode
  /-- The device-to-host signals, bit 0 Sense and bit 1 Read (10_state.md R26). -/
  sigOut : Sig
  /-- The host-to-device signals, bit 0 Write and bit 1 Motor (10_state.md R27). -/
  sigIn : Sig
  /-- The implementation parameters (00_scope.md R6 to R8); no operation writes them (log 1). -/
  cfg : Config
  /-- The host's operations not yet executed, oldest first (00_scope.md R5, log 2). -/
  pending : List Request
  /-- The input port `src` (30_encoding.md R53, log 3). -/
  src : Source
  /-- The result outputs as the last operation left them (30_encoding.md R53, 10_state.md R28, log 4). -/
  result : Result
  /-- How many indeterminate bytes have been drawn (20_memory.md R39, log 5). -/
  draws : Nat
  /-- The command words refused so far, oldest first: the sticky mark of the run, set where the list is not empty
  (60_exceptions.md R130 (b), log 10). No operation reads or writes it. -/
  refusals : List RefusedCommand
deriving DecidableEq, Repr

/-- Why the machine stops with a fault. -/
inductive Fault where
  /-- Raised by the payload read at an index at or past `tapeLength` (20_memory.md R39). The rules never reach
  it; it is the spec's own model fault. Safe. -/
  | readPastEnd
deriving DecidableEq, Repr

/-- Why the step answers no meaning. A reserved command word is none of these: the block refuses it, keeps the
refusal in `State.refusals` and goes on (60_exceptions.md R130). -/
inductive Refusal where
  /-- An instruction without a meaning; no arm of `exec` raises it. Safe. -/
  | notModelled (mnemonic : String)
deriving DecidableEq, Repr

/-- Power-on reset (70_reset_and_hazards.md R131); the parameters at this spec's values (00_scope.md R6 to R8),
no operation issued, nothing returned, nothing drawn, nothing refused (DESIGN CHOICE, log 1 to 5 and 10). -/
def State.reset : State where
  tapeData := []
  tapeLength := 0
  tapeFilled := 0
  tapVersion := 0
  tapePos := 0
  cyclesLeft := 1
  halfwayCycles := 0
  mode := .none
  sigOut := 0
  sigIn := 0
  cfg := Config.spec
  pending := []
  src := .notFound
  result := .nothing
  draws := 0
  refusals := []

end Sys2Proof.Machine
end

