-- ==== Sys2Proof/Machine/Flags.lean ====
section
/-!
DEFINITION. The signal bits and every rule that computes one: the positions of `Sense`, `Read`, `Write` and
`Motor` (30_encoding.md R62, R63), the transition detector and the countdown that feeds it.
-/

namespace Sys2Proof.Machine

/-! ## Bit positions -/

/-- `sigOut[0] = Sense` (30_encoding.md R62). -/
def senseBit (g : Sig) : Bool := g.getLsbD 0

/-- `sigOut[1] = Read` (30_encoding.md R62). -/
def readBit (g : Sig) : Bool := g.getLsbD 1

/-- `sigIn[0] = Write` (30_encoding.md R63). -/
def writeBit (g : Sig) : Bool := g.getLsbD 0

/-- `sigIn[1] = Motor` (30_encoding.md R63). -/
def motorBit (g : Sig) : Bool := g.getLsbD 1

/-- The register `sigOut` of its two bits (30_encoding.md R62). -/
def packOut (sense read : Bool) : Sig := BitVec.ofBool read ++ BitVec.ofBool sense

/-- The register `sigIn` of its two bits, which is also SIGNALS' `arg[1:0]` (30_encoding.md R57, R63). -/
def packIn (motor write : Bool) : Sig := BitVec.ofBool motor ++ BitVec.ofBool write

/-- Write `Sense`; `Read` keeps its value (10_state.md R26). -/
def withSense (b : Bool) (g : Sig) : Sig := packOut b (readBit g)

/-- Write `Read`; `Sense` keeps its value (10_state.md R26). -/
def withRead (b : Bool) (g : Sig) : Sig := packOut (senseBit g) b

/-! ## The ports that are bits of the signal registers -/

/-- The level output `sense_o = sigOut[0]` (30_encoding.md R53). -/
def State.senseO (s : State) : Bool := senseBit s.sigOut

/-- The level output `read_o = sigOut[1]` (30_encoding.md R53). -/
def State.readO (s : State) : Bool := readBit s.sigOut

/-- The host's Motor flag, stored by the last SIGNALS (10_state.md R27). -/
def State.motor (s : State) : Bool := motorBit s.sigIn

/-! ## Computed bits -/

/-- The decrement of the countdown register, which floors at 0 (41_pulse_player.md R96). -/
def countdown (c : Cnt) : Cnt := if c = 0 then 0 else c - 1

/-- The transition detector: `cyclesLeft < halfwayCycles`, unsigned (41_pulse_player.md R97). -/
def readLevel (left halfway : Cnt) : Bool := decide (left < halfway)

/-- End of data, `EOD ≡ tapePos ≥ tapeLength`, unsigned (10_state.md R30). -/
def State.endOfData (s : State) : Bool := decide (s.tapeLength ≤ s.tapePos)

end Sys2Proof.Machine
end

