-- ==== Sys2Proof/WellFormed.lean ====
section
/-!
DEFINITION. Which terms of the syntax an encoding can stand for, and which space an instruction belongs to.
-/

namespace Sys2Proof

/-- A short pulse is a non-zero byte, since `0x00` is the escape (30_encoding.md R71); every other term is
well formed, its operands being of the encoding's own widths. -/
def Instr.wf : Instr → Bool
  | .load => true
  | .save => true
  | .reset => true
  | .setbtn _ => true
  | .update => true
  | .signals _ _ => true
  | .pulseShort b => b != 0
  | .escV1 _ _ _ => true
  | .escFixed => true

/-- The instruction is one of the host's six commands (30_encoding.md R55). -/
def Instr.isCommand : Instr → Bool
  | .load => true
  | .save => true
  | .reset => true
  | .setbtn _ => true
  | .update => true
  | .signals _ _ => true
  | .pulseShort _ => false
  | .escV1 _ _ _ => false
  | .escFixed => false

/-- The same check on a symbol. -/
def Symbol.wf : Symbol → Bool
  | .short b => b != 0
  | .escV1 _ _ _ => true
  | .escFixed => true

/-- The versions under which a symbol can be read: the 24-bit escape needs `tapVersion = 1`, the fixed escape
every other version, a short pulse any (30_encoding.md R71 to R73). -/
def Symbol.fitsVersion (ver : Byte) : Symbol → Bool
  | .short _ => true
  | .escV1 _ _ _ => ver == 1
  | .escFixed => ver != 1

end Sys2Proof
end

