-- ==== Sys2Proof/Decode.lean ====
section
/-!
DEFINITION. The two decoders (commands, payload symbols), the code tables of the enumerations, and the encoder.

The opcode table has two spaces: a command word arrives from the host (30_encoding.md R54), a payload symbol
stands in the tape buffer (30_encoding.md R71 to R74). Each space has its own total decoder.
-/

namespace Sys2Proof

/-! ## Codes of the modes -/

/-- Mode codes (30_encoding.md R60). -/
def modeCode : Mode → BitVec 3
  | .none => 0
  | .play => 1
  | .stop => 2
  | .pause => 3
  | .record => 4
  | .done => 5

/-- The mode of a code; 6 and 7 are reserved (30_encoding.md R58, R60). -/
def modeOfCode (c : BitVec 3) : Option Mode :=
  if c = 0 then some .none
  else if c = 1 then some .play
  else if c = 2 then some .stop
  else if c = 3 then some .pause
  else if c = 4 then some .record
  else if c = 5 then some .done
  else Option.none

/-! ## Commands -/

/-- `op = cmd[7:4]` (30_encoding.md R54). -/
def opField (w : Byte) : BitVec 4 := w.extractLsb' 4 4

/-- `arg = cmd[3:0]` (30_encoding.md R54). -/
def argField (w : Byte) : BitVec 4 := w.extractLsb' 0 4

/-- LOAD, SAVE, RESET and UPDATE take `arg = 0000` (30_encoding.md R55, R58). -/
def decodeNoOperand (i : Instr) (arg : BitVec 4) : Except CommandError Instr :=
  if arg = 0 then .ok i else .error .reservedOperand

/-- SETBTN: `arg[3]` must be 0 and `arg[2:0]` a mode code (30_encoding.md R56, R58). -/
def decodeSetbtn (arg : BitVec 4) : Except CommandError Instr :=
  if arg.extractLsb' 3 1 = 0 then
    match modeOfCode (arg.extractLsb' 0 3) with
    | some m => .ok (.setbtn m)
    | Option.none => .error .reservedOperand
  else .error .reservedOperand

/-- SIGNALS: `arg[3:2]` must be 00, `arg[1]` is Motor, `arg[0]` is Write (30_encoding.md R57, R58). -/
def decodeSignals (arg : BitVec 4) : Except CommandError Instr :=
  if arg.extractLsb' 2 2 = 0 then .ok (.signals (arg.getLsbD 1) (arg.getLsbD 0))
  else .error .reservedOperand

/-- The command decoder: every 8-bit word is an operation or a refusal by name (30_encoding.md R55, R58, R59). -/
def decodeCommand (w : Byte) : Except CommandError Instr :=
  if opField w = 0x1 then decodeNoOperand .load (argField w)
  else if opField w = 0x2 then decodeNoOperand .save (argField w)
  else if opField w = 0x3 then decodeNoOperand .reset (argField w)
  else if opField w = 0x4 then decodeSetbtn (argField w)
  else if opField w = 0x5 then decodeNoOperand .update (argField w)
  else if opField w = 0x6 then decodeSignals (argField w)
  else .error .reservedOpcode

/-! ## Payload symbols -/

/-- A symbol as an instruction of the table. -/
def symbolInstr : Symbol → Instr
  | .short b => .pulseShort b
  | .escV1 b0 b1 b2 => .escV1 b0 b1 b2
  | .escFixed => .escFixed

/-- The bytes a symbol occupies, told from its first byte and `tapVersion` alone (30_encoding.md R74). -/
def symbolLength (ver b : Byte) : Nat :=
  if b = 0 then (if ver = 1 then 4 else 1) else 1

/-- The symbol decoder (30_encoding.md R71 to R74): the symbol at the head of the bytes and the bytes after
it; nothing where no byte is left or a version-1 escape is cut short. -/
def decodeSymbol (ver : Byte) : List Byte → Option (Symbol × List Byte)
  | [] => Option.none
  | b :: rest =>
    if b = 0 then
      if ver = 1 then
        match rest with
        | b0 :: b1 :: b2 :: rest' => some (.escV1 b0 b1 b2, rest')
        | _ => Option.none
      else some (.escFixed, rest)
    else some (.short b, rest)

/-! ## Encoder -/

/-- The command word of two fields (30_encoding.md R54). -/
def commandWord (op arg : BitVec 4) : Byte := op ++ arg

/-- The bytes of a symbol in payload order (30_encoding.md R71 to R73). -/
def encodeSymbol : Symbol → List Byte
  | .short b => [b]
  | .escV1 b0 b1 b2 => [0, b0, b1, b2]
  | .escFixed => [0]

/-- The bytes of an instruction: one command word (30_encoding.md R55 to R57), or a symbol's bytes in payload
order (R71 to R73). -/
def encode : Instr → List Byte
  | .load => [commandWord 0x1 0]
  | .save => [commandWord 0x2 0]
  | .reset => [commandWord 0x3 0]
  | .setbtn m => [commandWord 0x4 ((modeCode m).setWidth 4)]
  | .update => [commandWord 0x5 0]
  | .signals m w => [commandWord 0x6 ((BitVec.ofBool m ++ BitVec.ofBool w).setWidth 4)]
  | .pulseShort b => encodeSymbol (.short b)
  | .escV1 b0 b1 b2 => encodeSymbol (.escV1 b0 b1 b2)
  | .escFixed => encodeSymbol .escFixed

/-! ## The opcode table's words -/

/-- Byte `k` of a word numbered as the opcode table numbers it: bits `8k+7` to `8k`. -/
def tableByte (w k : Nat) : Byte := BitVec.ofNat 8 (w >>> (8 * k))

/-- The instruction the decoders read from a word of the opcode table. The table has two spaces and gives a
word none of its space, so (DESIGN CHOICE, log 6) an 8-bit word is read as a command, and where it is no
command as a one-byte symbol of a tape of version 0, the version at reset; a longer word is read as a symbol
of a version-1 tape, the only rows longer than a byte. -/
def decodeTableWord (nbits w : Nat) : Option Instr :=
  if nbits ≤ 8 then
    match decodeCommand (tableByte w 0) with
    | .ok i => some i
    | .error _ => (decodeSymbol 0 [tableByte w 0]).map fun p => symbolInstr p.1
  else
    (decodeSymbol 1 [tableByte w 0, tableByte w 1, tableByte w 2, tableByte w 3]).map fun p => symbolInstr p.1

end Sys2Proof
end

