-- ==== Sys2Proof/Machine/Operands.lean ====
section
/-!
DEFINITION. The operand forms: the multi-byte values the block assembles (20_memory.md R40 to R42), the pulse
lengths of the three payload symbols (30_encoding.md R71 to R73), the container's fixed fields (R66, R67), and
the codes of the result outputs (R60, R61, R64, R65).
-/

namespace Sys2Proof.Machine

/-! ## Multi-byte values -/

/-- Little-endian assembly: the first byte is the least significant (20_memory.md R40, R41). -/
def littleEndian : List Byte → Nat
  | [] => 0
  | b :: bs => b.toNat + 256 * littleEndian bs

/-! ## Pulse lengths -/

/-- A short pulse of byte `b` lasts `8 · b` cycles (30_encoding.md R71). -/
def shortPulseLength (b : Byte) : Cnt := BitVec.ofNat 24 (8 * b.toNat)

/-- The 24-bit count of a version-1 escape, not scaled (30_encoding.md R72, 20_memory.md R41). -/
def escapePulseLength (b0 b1 b2 : Byte) : Cnt := BitVec.ofNat 24 (littleEndian [b0, b1, b2])

/-- The fixed overflow length of every other version (30_encoding.md R73). -/
def fixedPulseLength : Cnt := 65535

/-! ## The container -/

/-- The 12 bytes `C64-TAPE-RAW` (30_encoding.md R67). -/
def magic : List Byte :=
  [0x43, 0x36, 0x34, 0x2D, 0x54, 0x41, 0x50, 0x45, 0x2D, 0x52, 0x41, 0x57]

/-! ## Codes of the results -/

/-- ErrorState codes on `err[2:0]` (30_encoding.md R61). -/
def errorCode : ErrorState → BitVec 3
  | .none => 0
  | .fileNotFound => 1
  | .fileNotTAP => 2
  | .error => 3
  | .tapTooShort => 4

/-- Handler status codes on `hstat[1:0]` (30_encoding.md R65). -/
def handlerStatusCode : HandlerStatus → BitVec 2
  | .none => 0
  | .running => 1
  | .notHandled => 2
  | .done => 3

/-- `upd_m1` (30_encoding.md R64). -/
def updM1 : UpdatePos → Bool
  | .minus1 => true
  | .pos _ => false

/-- `upd_pos[31:0]`, 0 for −1 (30_encoding.md R64). -/
def updPosBits : UpdatePos → Pos
  | .minus1 => 0
  | .pos p => p

/-- UPDATE's result read as a signed integer (30_encoding.md R64). -/
def updInt : UpdatePos → Int
  | .minus1 => -1
  | .pos p => p.toNat

/-- The output port `err[2:0]`, defined after LOAD and SAVE (30_encoding.md R53). -/
def Result.err? : Result → Option (BitVec 3)
  | .load e _ => some (errorCode e)
  | .save e => some (errorCode e)
  | .nothing => none
  | .update _ _ => none
  | .signals _ => none

/-- The output event `rel`, an output of LOAD alone (30_encoding.md R53, 40_container_parser.md R87, R90). -/
def Result.rel? : Result → Option Bool
  | .load _ r => some r
  | .save _ => none
  | .nothing => none
  | .update _ _ => none
  | .signals _ => none

/-- The output ports `upd_m1`, `upd_pos` and `hstat` of UPDATE (30_encoding.md R53, R64, R65). -/
def Result.upd? : Result → Option (Bool × Pos × BitVec 2)
  | .update p h => some (updM1 p, updPosBits p, handlerStatusCode h)
  | .load _ _ => none
  | .save _ => none
  | .nothing => none
  | .signals _ => none

/-- The output port `sig[1:0]` of SIGNALS (30_encoding.md R53). -/
def Result.sig? : Result → Option Sig
  | .signals g => some g
  | .load _ _ => none
  | .save _ => none
  | .nothing => none
  | .update _ _ => none

end Sys2Proof.Machine
end

