-- ==== Sys2Proof/Machine/Ops.lean ====
section
/-!
DEFINITION. The named operations over the payload buffer, the container stream and the registers.

The block takes no exception and has no return from one (60_exceptions.md R115, R120, R121): a failure is a
result code, delivered by `State.deliver` like every other result.
-/

namespace Sys2Proof.Machine

/-- Go on with the value of a step that answered next; a fault or a refusal stays what it is. -/
def andThen {α β : Type} (o : Host.Outcome α Fault Refusal) (f : α → Host.Outcome β Fault Refusal) :
    Host.Outcome β Fault Refusal :=
  match o with
  | .next a => f a
  | .fault r => .fault r
  | .refused r => .refused r

/-! ## The payload buffer (20_memory.md R36) -/

/-- The cells of a byte sequence from index `base` on. -/
def Memory.ofBytesFrom (base : Nat) : List Byte → Memory
  | [] => []
  | b :: bs => (base, b) :: Memory.ofBytesFrom (base + 1) bs

/-- The buffer that holds a byte sequence at indices from 0: the one write of the buffer, which replaces it
whole (20_memory.md R36). -/
def Memory.ofBytes (bytes : List Byte) : Memory := Memory.ofBytesFrom 0 bytes

/-- The byte at an index; an unlisted index holds none. -/
def Memory.read (m : Memory) (i : Nat) : Option Byte :=
  match m with
  | [] => none
  | (a, b) :: rest => if a = i then some b else Memory.read rest i

/-- The canonical form: indices strictly rising. An unlisted index reads as no value, so no entry can equal it. -/
def Memory.wf (m : Memory) : Bool :=
  match m with
  | [] => true
  | c :: rest => rest.all (fun d => decide (c.1 < d.1)) && Memory.wf rest

/-- Replace the payload buffer, its length and its filled count, one atomic write of the three registers
(40_container_parser.md R84 to R86). -/
def State.setTape (s : State) (bytes : List Byte) (len filled : Pos) : State :=
  { s with tapeData := Memory.ofBytes bytes, tapeLength := len, tapeFilled := filled }

/-- The first step of LOAD that writes (40_container_parser.md R80). -/
def State.setVersion (s : State) (v : Byte) : State := { s with tapVersion := v }

/-- `Draw()`: a fresh indeterminate byte (00_scope.md R13, 93_implementation_defined.md I1). -/
def State.draw (s : State) : Byte × State :=
  (Config.drawByte s.draws, { s with draws := s.draws + 1 })

/-- `MemRead(i, 1)` (20_memory.md R39): a fault past the payload, the byte below `tapeFilled`, a draw between.
An index below `tapeFilled` that the buffer does not list cannot arise from LOAD; it too reads as a draw
(DEDUCED, log 7). -/
def memRead (i : Nat) (s : State) : Host.Outcome (Byte × State) Fault Refusal :=
  if s.tapeLength.toNat ≤ i then .fault .readPastEnd
  else if i < s.tapeFilled.toNat then
    match s.tapeData.read i with
    | some b => .next (b, s)
    | none => .next s.draw
  else .next s.draw

/-- `n` payload reads in order from index `i` on (20_memory.md R44). -/
def memReadRun (i n : Nat) (s : State) : Host.Outcome (List Byte × State) Fault Refusal :=
  match n with
  | 0 => .next ([], s)
  | k + 1 =>
    andThen (memRead i s) fun p =>
      andThen (memReadRun (i + 1) k p.2) fun q => .next (p.1 :: q.1, q.2)

/-! ## The container stream (20_memory.md R37, R38) -/

/-- What one `StreamRead(n)` answers: the bytes read, the stream left, and whether fewer than `n` remained. -/
structure StreamChunk where
  bytes : List Byte
  rest : List Byte
  short : Bool
deriving DecidableEq, Repr

/-- `StreamRead(n)` on the bytes the source still holds (20_memory.md R38). -/
def streamRead (n : Nat) (stream : List Byte) : StreamChunk :=
  { bytes := stream.take n, rest := stream.drop n, short := decide (stream.length < n) }

/-! ## Registers and ports -/

/-- Write the cursor `(tapePos, cyclesLeft, halfwayCycles)` (00_scope.md R15, PlaybackCursor). -/
def State.setCursor (s : State) (pos : Pos) (left halfway : Cnt) : State :=
  { s with tapePos := pos, cyclesLeft := left, halfwayCycles := halfway }

/-- Write the countdown register alone (41_pulse_player.md R96). -/
def State.setCyclesLeft (s : State) (left : Cnt) : State := { s with cyclesLeft := left }

/-- Write the payload cursor alone (41_pulse_player.md R102). -/
def State.setTapePos (s : State) (pos : Pos) : State := { s with tapePos := pos }

/-- Write the button selection (42_interface.md R112). -/
def State.setMode (s : State) (m : Mode) : State := { s with mode := m }

/-- Write the device-to-host signals (10_state.md R26). -/
def State.setSigOut (s : State) (g : Sig) : State := { s with sigOut := g }

/-- Write the host-to-device signals (10_state.md R27). -/
def State.setSigIn (s : State) (g : Sig) : State := { s with sigIn := g }

/-- `sigOut.Sense <- b`; `Read` is held. -/
def State.setSense (s : State) (b : Bool) : State := s.setSigOut (withSense b s.sigOut)

/-- `sigOut.Read <- b`; `Sense` is held. -/
def State.setRead (s : State) (b : Bool) : State := s.setSigOut (withRead b s.sigOut)

/-- Deliver an operation's result on the result outputs (30_encoding.md R53, 00_scope.md R13 `return`). -/
def State.deliver (s : State) (r : Result) : State := { s with result := r }

/-- A fetched pulse of length `length` whose symbol is `size` bytes long: the cursor passes the symbol
(41_pulse_player.md R100), the counter takes the length and the halfway point half of it (R101). -/
def State.loadPulse (s : State) (length : Cnt) (size : Pos) : State :=
  s.setCursor (s.tapePos + size) length (length / 2)

/-- UPDATE's position result after the handler: −1 on a zero-length tape, else the cursor
(41_pulse_player.md R104). -/
def State.updatePos (s : State) : UpdatePos :=
  if s.tapeLength = 0 then .minus1 else .pos s.tapePos

/-- Form UPDATE's result with a handler status (41_pulse_player.md R92, R104). -/
def State.deliverUpdate (s : State) (h : HandlerStatus) : State := s.deliver (.update s.updatePos h)

end Sys2Proof.Machine
end

