-- ==== Sys2Proof/Machine/Container.lean ====
section
/-!
DEFINITION. The container parser: LOAD and SAVE (40_container_parser.md). One definition per step of LOAD, in the
order of R118; each step hands the stream it left to the next.
-/

namespace Sys2Proof.Machine

/-- A LOAD that opened its source ends: the source is released exactly once and the code returned
(40_container_parser.md R87). -/
def loadDone (e : ErrorState) (s : State) : State := s.deliver (.load e true)

/-- What a truncated payload leaves under each policy (40_container_parser.md R85, R86). -/
def truncatedTape (bytes : List Byte) (len : Pos) (s : State) : State :=
  match s.cfg.truncPolicy with
  | .reject => s.setTape [] 0 0
  | .legacy => s.setTape bytes len (BitVec.ofNat 32 bytes.length)

/-- Step 5, the payload (40_container_parser.md R84 to R86, R89). -/
def loadPayload (len : Pos) (stream : List Byte) (s : State) : State :=
  let p := streamRead len.toNat stream
  if p.short then loadDone .tapTooShort (truncatedTape p.bytes len s)
  else loadDone .none (s.setTape p.bytes len len)

/-- Step 4, the length, and the capacity test (40_container_parser.md R82, R83). -/
def loadLength (stream : List Byte) (s : State) : State :=
  let p := streamRead 4 stream
  if p.short then loadDone .error s
  else if s.cfg.tapeCapacity < littleEndian p.bytes then loadDone .error s
  else loadPayload (BitVec.ofNat 32 (littleEndian p.bytes)) p.rest s

/-- Step 3, the reserved bytes, read and discarded (40_container_parser.md R81, 30_encoding.md R69). -/
def loadReserved (stream : List Byte) (s : State) : State :=
  let p := streamRead 3 stream
  if p.short then loadDone .error s else loadLength p.rest s

/-- Step 2, the version, stored at once (40_container_parser.md R80, 30_encoding.md R68). -/
def loadVersion (stream : List Byte) (s : State) : State :=
  match (streamRead 1 stream).bytes with
  | v :: _ => loadReserved (streamRead 1 stream).rest (s.setVersion v)
  | [] => loadDone .error s

/-- Step 1, the magic; the short-read test comes before the comparison (40_container_parser.md R79). -/
def loadStream (stream : List Byte) (s : State) : State :=
  let p := streamRead 12 stream
  if p.short then loadDone .error s
  else if p.bytes = magic then loadVersion p.rest s
  else loadDone .fileNotTAP s

/-- LOAD (40_container_parser.md R77): an unopened source is FileNotFound with no release (R78). -/
def execLoad (s : State) : Host.Outcome State Fault Refusal :=
  match s.src with
  | .notFound => .next (s.deliver (.load .fileNotFound false))
  | .stream bytes => .next (loadStream bytes s)

/-- SAVE: the stub that always fails and writes no state (40_container_parser.md R90). -/
def execSave (s : State) : Host.Outcome State Fault Refusal :=
  .next (s.deliver (.save s.cfg.saveErr))

end Sys2Proof.Machine
end

