-- ==== Sys2Proof/Machine/Controls.lean ====
section
/-!
DEFINITION. Signal exchange, cursor reset and mode selection: SIGNALS, RESET, SETBTN (42_interface.md).
-/

namespace Sys2Proof.Machine

/-- SIGNALS: store the host's flags, return the device's (42_interface.md R110). -/
def execSignals (motor write : Bool) (s : State) : Host.Outcome State Fault Refusal :=
  .next ((s.setSigIn (packIn motor write)).deliver (.signals s.sigOut))

/-- RESET: the cursor to `(0, 1, 0)` and nothing else (42_interface.md R111, 70_reset_and_hazards.md R132). -/
def execReset (s : State) : Host.Outcome State Fault Refusal :=
  .next ((s.setCursor 0 1 0).deliver .nothing)

/-- SETBTN: the mode and nothing else (42_interface.md R112, R113). -/
def execSetbtn (m : Mode) (s : State) : Host.Outcome State Fault Refusal :=
  .next ((s.setMode m).deliver .nothing)

end Sys2Proof.Machine
end

