-- ==== Sys2Proof/Machine/Symbols.lean ====
section
/-!
DEFINITION. The payload symbols: what each does when the play handler has fetched it (41_pulse_player.md R100,
R101). The handler's own writes of that UPDATE (`Sense`, `Read`, the countdown, the result) are in Player.lean.
-/

namespace Sys2Proof.Machine

/-- PULSE_SHORT: `8 · b` cycles, one byte (30_encoding.md R71). -/
def execPulseShort (b : Byte) (s : State) : Host.Outcome State Fault Refusal :=
  .next (s.loadPulse (shortPulseLength b) 1)

/-- ESC_V1: the 24-bit count, four bytes (30_encoding.md R72). -/
def execEscV1 (b0 b1 b2 : Byte) (s : State) : Host.Outcome State Fault Refusal :=
  .next (s.loadPulse (escapePulseLength b0 b1 b2) 4)

/-- ESC_FIXED: 65535 cycles, one byte (30_encoding.md R73). -/
def execEscFixed (s : State) : Host.Outcome State Fault Refusal :=
  .next (s.loadPulse fixedPulseLength 1)

/-- The effect of a fetched symbol: that of its row of the opcode table. -/
def runSymbol (y : Symbol) (s : State) : Host.Outcome State Fault Refusal :=
  match y with
  | .short b => execPulseShort b s
  | .escV1 b0 b1 b2 => execEscV1 b0 b1 b2 s
  | .escFixed => execEscFixed s

end Sys2Proof.Machine
end

