-- ==== Sys2Proof/Machine/Player.lean ====
section
/-!
DEFINITION. The pulse player: UPDATE, its dispatch on the mode, and its two handlers (41_pulse_player.md).
-/

namespace Sys2Proof.Machine

/-- `DecodePulse` at the cursor (41_pulse_player.md R100): the symbol there, or none where it is a version-1
escape cut short by the end of the payload (R102). The bound is computed on naturals, so it cannot wrap. -/
def fetchSymbol (s : State) : Host.Outcome (Option Symbol × State) Fault Refusal :=
  andThen (memRead s.tapePos.toNat s) fun p =>
    if s.tapeLength.toNat < s.tapePos.toNat + symbolLength s.tapVersion p.1 then .next (none, p.2)
    else
      andThen (memReadRun (s.tapePos.toNat + 1) (symbolLength s.tapVersion p.1 - 1) p.2) fun q =>
        .next ((decodeSymbol s.tapVersion (p.1 :: q.1)).map Prod.fst, q.2)

/-- The fetch of the next pulse (41_pulse_player.md R99 to R102): nothing at end of data, the symbol's effect,
or, where it is truncated, the cursor to the end of the payload. -/
def fetchPulse (s : State) : Host.Outcome State Fault Refusal :=
  if s.endOfData then .next s
  else
    andThen (fetchSymbol s) fun p =>
      match p.1 with
      | some y => runSymbol y p.2
      | none => .next (p.2.setTapePos p.2.tapeLength)

/-- The play-cycle handler with the motor on: countdown (41_pulse_player.md R96), transition detector (R97),
and, once the pulse has elapsed, `Read` off and the next fetch (R98, R99). -/
def playMotor (s : State) : Host.Outcome State Fault Refusal :=
  let left := countdown s.cyclesLeft
  let t := (s.setCyclesLeft left).setRead (readLevel left s.halfwayCycles)
  if left = 0 then fetchPulse (t.setRead false) else .next t

/-- The play-cycle handler (41_pulse_player.md R95): `Sense` on; with the motor off nothing further. -/
def playCycle (s : State) : Host.Outcome State Fault Refusal :=
  let t := s.setSense true
  if s.motor then playMotor t else .next t

/-- The record-cycle handler's status (41_pulse_player.md R103). -/
def recordStatus (s : State) : HandlerStatus :=
  if s.motor then .notHandled else .running

/-- UPDATE: one emulation cycle (41_pulse_player.md R92). -/
def execUpdate (s : State) : Host.Outcome State Fault Refusal :=
  match s.mode with
  | .done => .next ((s.setSigOut 0).deliver (.update .minus1 .done))
  | .play => andThen (playCycle s) fun t => .next (t.deliverUpdate .running)
  | .record => .next ((s.setSense true).deliverUpdate (recordStatus s))
  | .none => .next ((s.setSense false).deliverUpdate .none)
  | .stop => .next ((s.setSense false).deliverUpdate .none)
  | .pause => .next ((s.setSense false).deliverUpdate .none)

end Sys2Proof.Machine
end

