-- ==== Sys2Proof/Machine/Dispatch.lean ====
section
/-!
DEFINITION. One arm per row of the opcode table.
-/

namespace Sys2Proof.Machine

def exec (i : Instr) (s : State) : Host.Outcome State Fault Refusal :=
  match i with
  | .load => Sys2Proof.Machine.execLoad s
  | .save => Sys2Proof.Machine.execSave s
  | .reset => Sys2Proof.Machine.execReset s
  | .setbtn m => Sys2Proof.Machine.execSetbtn m s
  | .update => Sys2Proof.Machine.execUpdate s
  | .signals m w => Sys2Proof.Machine.execSignals m w s
  | .pulseShort b => Sys2Proof.Machine.execPulseShort b s
  | .escV1 b0 b1 b2 => Sys2Proof.Machine.execEscV1 b0 b1 b2 s
  | .escFixed => Sys2Proof.Machine.execEscFixed s

end Sys2Proof.Machine
end

