-- ==== Sys2Proof/Machine/Fetch.lean ====
section
/-!
DEFINITION. Where the step takes its next operation from: the host's command port (00_scope.md R5, 10_state.md
R17), and how a word of the opcode table is placed so that the very next step runs it.
-/

namespace Sys2Proof.Machine

/-- Take the oldest operation the host issued: its source argument stands on the port `src` while it executes
(30_encoding.md R53). -/
def State.accept (s : State) (r : Request) (rest : List Request) : State :=
  { s with pending := rest, src := r.src }

/-- Refuse the oldest operation the host issued: it leaves the queue, its word and the reason join the mark of the
run, and nothing else changes, neither register nor output (30_encoding.md R58, R59, 60_exceptions.md R130 (b),
log 10). -/
def State.refuse (s : State) (r : Request) (rest : List Request) (e : CommandError) : State :=
  { s with pending := rest, refusals := s.refusals ++ [{ cmd := r.cmd, reason := e }] }

/-- What the host's command port gives the step. -/
inductive Fetched where
  /-- The host has issued nothing. -/
  | idle
  /-- A reserved word was refused, which leaves this state. -/
  | refused (t : State)
  /-- An operation to execute, on the state that holds its argument. -/
  | command (i : Instr) (t : State)
deriving DecidableEq, Repr

/-- Take the oldest command word and decode it. -/
def fetchCommand (s : State) : Fetched :=
  match s.pending with
  | [] => .idle
  | r :: rest =>
    match decodeCommand r.cmd with
    | .ok i => .command i (s.accept r rest)
    | .error e => .refused (s.refuse r rest e)

/-- The host issues one more operation ahead of those it has issued. -/
def State.issueFirst (s : State) (cmd : Byte) : State :=
  { s with pending := { cmd := cmd, src := s.src } :: s.pending }

/-- The version a tape must have for the symbol to be read as it stands; a short pulse reads in every version
(30_encoding.md R71 to R73). -/
def versionFor (y : Symbol) (v : Byte) : Byte :=
  match y with
  | .short _ => v
  | .escV1 _ _ _ => 1
  | .escFixed => 0

/-- Load a tape that holds one symbol, put the cursor at its start with the countdown about to elapse, press
Play, turn the motor on and issue UPDATE: the next step fetches and runs the symbol (41_pulse_player.md R92 to
R101, 70_reset_and_hazards.md R133). -/
def State.placeSymbol (s : State) (y : Symbol) : State :=
  let n : Pos := BitVec.ofNat 32 (encodeSymbol y).length
  ((((((s.setTape (encodeSymbol y) n n).setVersion (versionFor y s.tapVersion)).setTapePos 0).setCyclesLeft 1).setMode
    .play).setSigIn (packIn true (writeBit s.sigIn))).issueFirst (commandWord 0x5 0)

/-- Place a word of the opcode table: a symbol on a tape of its own; any other word, decodable or not, as the
host's next command. -/
def State.placeWord (s : State) (nbits w : Nat) : State :=
  match decodeTableWord nbits w with
  | some (.pulseShort b) => s.placeSymbol (.short b)
  | some (.escV1 b0 b1 b2) => s.placeSymbol (.escV1 b0 b1 b2)
  | some .escFixed => s.placeSymbol .escFixed
  | some .load => s.issueFirst (tableByte w 0)
  | some .save => s.issueFirst (tableByte w 0)
  | some .reset => s.issueFirst (tableByte w 0)
  | some (.setbtn _) => s.issueFirst (tableByte w 0)
  | some .update => s.issueFirst (tableByte w 0)
  | some (.signals _ _) => s.issueFirst (tableByte w 0)
  | none => s.issueFirst (tableByte w 0)

end Sys2Proof.Machine
end

