-- ==== Sys2Proof/Machine/Step.lean ====
section
/-!
DEFINITION. One step: one operation of the host, atomic (00_scope.md R5, 20_memory.md R48).
-/

namespace Sys2Proof.Machine

/-- Run the oldest operation the host issued. Where it has issued none the block idles (DESIGN CHOICE, log 2). A
reserved command word is refused: the step is rejected with no state change but the mark of the run, and later
operations run (30_encoding.md R58, R59, 60_exceptions.md R130 (b), log 10). -/
def step (s : State) : Host.Outcome State Fault Refusal :=
  match fetchCommand s with
  | .idle => .next s
  | .refused t => .next t
  | .command i t => exec i t

/-- The state whose next step runs the instruction of an opcode-table word (DESIGN CHOICE, log 6 and 8). -/
def State.withFetchWord (s : State) (nbits w : Nat) : State := s.placeWord nbits w

end Sys2Proof.Machine
end

