-- ==== Sys2Proof/Machine/HostSide.lean ====
section
/-!
DEFINITION. The host's side of the interface, outside the block: the file-extension classifier
(40_container_parser.md R91), the container builder and the command syntax (30_encoding.md R75), and the
pseudo-instructions (R76). No step of the block uses anything here.
-/

namespace Sys2Proof.Machine

/-! ## The classifier -/

/-- What the classifier answers (40_container_parser.md R91). -/
inductive Classification where
  | tap
  | unknown
deriving DecidableEq, Repr

/-- The characters after the last `.` of a path; none where it has no `.`. -/
def finalExtension (path : List Char) : Option (List Char) :=
  if '.' ∈ path then some (path.reverse.takeWhile (fun c => c != '.')).reverse else none

/-- `Classify(path)`: the final extension is `tap` under ASCII case-insensitive comparison. -/
def classify (path : List Char) : Classification :=
  match finalExtension path with
  | some e => if e.map Char.toLower = ['t', 'a', 'p'] then .tap else .unknown
  | none => .unknown

/-! ## Containers and commands -/

/-- The four little-endian bytes of a 32-bit length (20_memory.md R40). -/
def lengthBytes (n : Pos) : List Byte :=
  [n.extractLsb' 0 8, n.extractLsb' 8 8, n.extractLsb' 16 8, n.extractLsb' 24 8]

/-- The 20-byte header (30_encoding.md R66) with the given version, reserved bytes and declared length. -/
def header (v r0 r1 r2 : Byte) (len : Pos) : List Byte := magic ++ v :: r0 :: r1 :: r2 :: lengthBytes len

/-- `TAP(v, [payload])` (30_encoding.md R75). -/
def tapContainer (v : Byte) (payload : List Byte) : List Byte :=
  header v 0 0 0 (BitVec.ofNat 32 payload.length) ++ payload

/-- One command of the host as the operation it issues; only LOAD's source is read (30_encoding.md R53, R75). -/
def request (i : Instr) (src : Source) : Request :=
  { cmd := (encode i).headD 0, src := src }

/-- `LOAD <stream>` (30_encoding.md R75). -/
def loadRequest (src : Source) : Request := request .load src

/-- Any other command of R75. -/
def plainRequest (i : Instr) : Request := request i .notFound

/-! ## Pseudo-instructions (30_encoding.md R76) -/

/-- `UPDATE*n`. -/
def updateTimes (n : Nat) : List Request := List.replicate n (plainRequest .update)

/-- The order of SIGNALS and UPDATE within a host cycle, the host's own choice (70_reset_and_hazards.md R135,
92_eei_decisions.md D33). -/
inductive HostOrder where
  | sigThenUpd
  | updThenSig
deriving DecidableEq, Repr

/-- One host cycle in an order (70_reset_and_hazards.md R135). -/
def hostCycle (o : HostOrder) (motor write : Bool) : List Request :=
  match o with
  | .sigThenUpd => [plainRequest (.signals motor write), plainRequest .update]
  | .updThenSig => [plainRequest .update, plainRequest (.signals motor write)]

/-- `TICK m`. -/
def tick (motor : Bool) : List Request := hostCycle .sigThenUpd motor false

/-- `TICK*n m`. -/
def tickTimes (n : Nat) (motor : Bool) : List Request := (List.replicate n (tick motor)).flatten

/-- `REWIND`. -/
def rewindCursor : List Request := [plainRequest .reset]

/-- The host adds operations behind those it has issued. -/
def State.issue (s : State) (ops : List Request) : State := { s with pending := s.pending ++ ops }

/-- The boot sequence before the emulation cycles: LOAD, RESET, SETBTN Play (70_reset_and_hazards.md R133). -/
def bootSequence (src : Source) : List Request :=
  [loadRequest src, plainRequest .reset, plainRequest (.setbtn .play)]

end Sys2Proof.Machine
end

