-- ==== Sys2Proof/Safety.lean ====
section
/-!
DEFINITION. The terms that statements about the block use: its invariant, its phases, runs of UPDATEs, and what a
tape decodes to.
-/

namespace Sys2Proof.Machine

/-! ## The invariant -/

/-- The buffer lists exactly the indices below `tapeFilled`, in order (10_state.md R20, 20_memory.md R36). -/
abbrev State.BufferMatches (s : State) : Prop :=
  s.tapeData.map Prod.fst = List.range s.tapeFilled.toNat

/-- What every operation preserves from power-on (10_state.md R33): the buffer in its canonical form and listing
the filled bytes, `tapeFilled ≤ tapeLength` with equality under REJECT, `halfwayCycles ≤ 2^23 − 1`, and the
parameters in their ranges. The bounds of `cyclesLeft` and `mode` are those of their types. -/
abbrev State.Inv (s : State) : Prop :=
  Memory.wf s.tapeData = true ∧ s.BufferMatches ∧ s.tapeFilled ≤ s.tapeLength ∧
    (s.cfg.truncPolicy = .reject → s.tapeFilled = s.tapeLength) ∧
    s.halfwayCycles.toNat ≤ 2 ^ 23 - 1 ∧ s.cfg.wf = true

/-- No payload byte is indeterminate: LOAD wrote every byte below `tapeLength` (20_memory.md R39). -/
abbrev State.AllFilled (s : State) : Prop := s.BufferMatches ∧ s.tapeFilled = s.tapeLength

/-- Byte `b` stands at payload index `i`, inside the payload and written by LOAD (20_memory.md R39). -/
abbrev State.Holds (s : State) (i : Nat) (b : Byte) : Prop :=
  i < s.tapeLength.toNat ∧ i < s.tapeFilled.toNat ∧ s.tapeData.read i = some b

/-! ## Phases of the player (10_state.md R31) -/

/-- The four player states DOC names. -/
inductive Phase where
  | idle
  | pulseLow
  | pulseHigh
  | endOfTape
deriving DecidableEq, Repr

/-- UPDATE advances the tape: Play with the motor on. -/
abbrev State.Playing (s : State) : Prop := s.mode = .play ∧ s.motor = true

/-- No further pulse will be fetched: `cyclesLeft = 0` and `EOD` (10_state.md R31). -/
abbrev State.AtEndOfTape (s : State) : Prop := s.cyclesLeft = 0 ∧ s.endOfData = true

/-- The phase read off the state at an operation boundary, the names tested in the order of R31 (DEDUCED, log 9);
outside Play they do not apply. -/
def State.phase (s : State) : Option Phase :=
  if s.mode = .play then
    if s.motor = false then some .idle
    else if s.AtEndOfTape then some .endOfTape
    else if s.readO then some .pulseHigh
    else some .pulseLow
  else none

/-! ## Groups of registers -/

/-- The playback cursor (00_scope.md R15). -/
def State.cursor (s : State) : Pos × Cnt × Cnt := (s.tapePos, s.cyclesLeft, s.halfwayCycles)

/-- The tape image with its version (00_scope.md R15). -/
def State.tapeImage (s : State) : Memory × Pos × Pos × Byte :=
  (s.tapeData, s.tapeLength, s.tapeFilled, s.tapVersion)

/-! ## Runs -/

/-- `n` UPDATEs in a row (30_encoding.md R76, `UPDATE*n`). -/
def updates : Nat → State → Host.Outcome State Fault Refusal
  | 0, s => .next s
  | n + 1, s => andThen (exec .update s) (updates n)

/-- Every operation the host has issued is one of the block's (30_encoding.md R55). -/
abbrev State.AllIssuedDecode (s : State) : Prop :=
  ∀ r ∈ s.pending, ∃ i, decodeCommand r.cmd = .ok i

/-! ## What a tape decodes to -/

/-- The payload, read from its first byte, is a sequence of complete symbols with these pulse lengths, in order
(30_encoding.md R71 to R74); a payload that ends in a truncated version-1 escape decodes to nothing. -/
inductive DecodesToPulses (ver : Byte) : List Byte → List Nat → Prop where
  | endOfPayload : DecodesToPulses ver [] []
  | short (b : Byte) (rest : List Byte) (pulses : List Nat) : b ≠ 0x00 → DecodesToPulses ver rest pulses →
      DecodesToPulses ver (b :: rest) (8 * b.toNat :: pulses)
  | escV1 (b0 b1 b2 : Byte) (rest : List Byte) (pulses : List Nat) : ver = 1 → DecodesToPulses ver rest pulses →
      DecodesToPulses ver (0x00 :: b0 :: b1 :: b2 :: rest)
        ((b0.toNat + 256 * b1.toNat + 65536 * b2.toNat) :: pulses)
  | escFixed (rest : List Byte) (pulses : List Nat) : ver ≠ 1 → DecodesToPulses ver rest pulses →
      DecodesToPulses ver (0x00 :: rest) (65535 :: pulses)

/-- The UPDATE at which a tape of these pulses reaches its end: `1 + Σ_{k=1..n−1} max(Lk, 1) + Ln`
(41_pulse_player.md R108). -/
def tapeTime (pulses : List Nat) : Nat :=
  1 + (pulses.dropLast.map (fun l => max l 1)).sum + pulses.getLast?.getD 0

end Sys2Proof.Machine
end

