-- ==== Sys2Proof/Certificates/Slice0/Obligations.lean ====
section
/-!
DEFINITION. The statements for the provers, from the numbered rules of spec/. Where a statement rests on a choice of
the model (log n) its docstring says so.
-/

open Sys2Proof Sys2Proof.Machine

/-! ## Encoding -/

/-- A few words written out from 30_encoding.md R55, R58, R59, R71 to R73. -/
def Obligations.WrittenWordsDecode : Prop :=
  decodeCommand 0x10 = .ok .load ∧ decodeCommand 0x20 = .ok .save ∧ decodeCommand 0x30 = .ok .reset ∧
  decodeCommand 0x44 = .ok (.setbtn .record) ∧ decodeCommand 0x50 = .ok .update ∧
  decodeCommand 0x62 = .ok (.signals true false) ∧ decodeCommand 0x46 = .error .reservedOperand ∧
  decodeCommand 0x70 = .error .reservedOpcode ∧
  decodeSymbol 0 [0x0A, 0x01] = some (.short 0x0A, [0x01]) ∧
  decodeSymbol 1 [0x00, 0x10, 0x20, 0x30, 0x01] = some (.escV1 0x10 0x20 0x30, [0x01]) ∧
  decodeSymbol 2 [0x00, 0x10] = some (.escFixed, [0x10])

/-- Decode and encode agree on every well-formed instruction of both spaces (30_encoding.md R54 to R57, R71 to
R74): a command's word decodes to the command; a symbol's bytes decode, under a version that admits it and with
anything after them, to the symbol and what is after them. -/
def Obligations.DecodeOfEncodeIsTheInstruction : Prop :=
  (∀ i : Instr, i.wf = true → i.isCommand = true → ∃ w, encode i = [w] ∧ decodeCommand w = .ok i) ∧
  (∀ i : Instr, i.wf = true → i.isCommand = false → ∃ y : Symbol, symbolInstr y = i ∧
    ∀ (ver : Byte) (rest : List Byte), y.fitsVersion ver = true →
      decodeSymbol ver (encode i ++ rest) = some (y, rest))

/-- The other direction: what a decoder accepts is the encoding of its answer, so no bit is dropped; and a
symbol's length is told by its first byte and the version (30_encoding.md R74). -/
def Obligations.EncodeOfDecodeIsTheBytes : Prop :=
  (∀ (w : Byte) (i : Instr), decodeCommand w = .ok i →
    encode i = [w] ∧ i.isCommand = true ∧ i.wf = true) ∧
  (∀ (ver : Byte) (bytes : List Byte) (y : Symbol) (rest : List Byte),
    decodeSymbol ver bytes = some (y, rest) →
      bytes = encode (symbolInstr y) ++ rest ∧ y.wf = true ∧ y.fitsVersion ver = true ∧
      ∃ b tail, bytes = b :: tail ∧
        (encode (symbolInstr y)).length = if b = 0x00 ∧ ver = 1 then 4 else 1)

/-- A symbol fails to decode exactly where no byte is left or a version-1 escape has fewer than three bytes
after it (30_encoding.md R74). -/
def Obligations.OnlyTruncatedEscapesFailToDecode : Prop :=
  ∀ (ver : Byte) (bytes : List Byte), decodeSymbol ver bytes = none ↔
    bytes = [] ∨ (ver = 1 ∧ bytes.head? = some 0x00 ∧ bytes.length < 4)

/-! ## The step -/

/-- The step on a decodable command is exec of it, with its source argument on the input port and the operation
taken off the host's queue (00_scope.md R5; the queue and the port are the model's, log 2 and 3). -/
def Obligations.StepRunsTheDecodedCommand : Prop :=
  ∀ (s : State) (r : Request) (rest : List Request) (i : Instr), s.pending = r :: rest →
    decodeCommand r.cmd = .ok i → step s = exec i { s with pending := rest, src := r.src }

/-- The command words of 30_encoding.md R58 and R59 are refused by name, and every other word decodes to an
operation. A refused word leaves the queue and joins the mark of the run, and nothing else changes (60_exceptions.md
R130 (b)). That the queue and the list of refused words hold this is the model's choice (DESIGN CHOICE, log 2 and
10). -/
def Obligations.StepRefusesReservedWords : Prop :=
  ∀ (s : State) (r : Request) (rest : List Request), s.pending = r :: rest →
    let op := r.cmd.extractLsb' 4 4
    let arg := r.cmd.extractLsb' 0 4
    let reservedOp := op = 0x0 ∨ 0x7 ≤ op
    let reservedArg := ((op = 0x1 ∨ op = 0x2 ∨ op = 0x3 ∨ op = 0x5) ∧ arg ≠ 0) ∨
      (op = 0x4 ∧ (arg.getLsbD 3 = true ∨ arg.extractLsb' 0 3 = 6 ∨ arg.extractLsb' 0 3 = 7)) ∨
      (op = 0x6 ∧ arg.extractLsb' 2 2 ≠ 0)
    (reservedOp →
      step s = .next { s with pending := rest, refusals := s.refusals ++ [⟨r.cmd, .reservedOpcode⟩] }) ∧
    (reservedArg →
      step s = .next { s with pending := rest, refusals := s.refusals ++ [⟨r.cmd, .reservedOperand⟩] }) ∧
    (¬reservedOp → ¬reservedArg → ∃ i, decodeCommand r.cmd = .ok i)

/-- The mark of a refusal is sticky, and the run goes on after one (60_exceptions.md R130 (b)): no step takes a
refused word out of the mark, a step adds one exactly where the oldest word issued is reserved, and the operation
issued after a refused word is executed by the next step. That the queue and the list of refused words hold this is
the model's choice (DESIGN CHOICE, log 2 and 10). -/
def Obligations.RefusalIsStickyAndTheRunGoesOn : Prop :=
  ∀ s : State, ∃ t, step s = .next t ∧ s.refusals <+: t.refusals ∧
    (t.refusals = s.refusals ↔ ∀ r rest, s.pending = r :: rest → ∃ i, decodeCommand r.cmd = .ok i) ∧
    (∀ (r q : Request) (rest : List Request) (e : CommandError) (i : Instr), s.pending = r :: q :: rest →
      decodeCommand r.cmd = .error e → decodeCommand q.cmd = .ok i →
      step t = exec i { s with pending := rest, src := q.src, refusals := s.refusals ++ [⟨r.cmd, e⟩] })

/-- With no operation issued the step idles: a choice of the model (log 2). -/
def Obligations.StepIdlesWithoutACommand : Prop :=
  ∀ s : State, s.pending = [] → step s = .next s

/-- A command word placed by `withFetchWord` is what the next step runs (the placing is the model's, log 8). -/
def Obligations.PlacedCommandRunsNext : Prop :=
  ∀ (s : State) (w : Byte) (i : Instr), decodeCommand w = .ok i →
    step (s.withFetchWord 8 w.toNat) = exec i s

/-! ## LOAD -/

/-- Open (40_container_parser.md R78). -/
def Obligations.LoadOfUnopenedSource : Prop :=
  ∀ s : State, s.src = .notFound →
    exec .load s = .next { s with result := .load .fileNotFound false }

/-- Step 1, the magic, the short-read test first (40_container_parser.md R79). -/
def Obligations.LoadChecksTheMagic : Prop :=
  ∀ (s : State) (S : List Byte), s.src = .stream S →
    (S.length < 12 → exec .load s = .next { s with result := .load .error true }) ∧
    (12 ≤ S.length →
      S.take 12 ≠ [0x43, 0x36, 0x34, 0x2D, 0x54, 0x41, 0x50, 0x45, 0x2D, 0x52, 0x41, 0x57] →
      exec .load s = .next { s with result := .load .fileNotTAP true })

/-- Steps 2 to 4, short reads: no version byte leaves every register; after it, the version is written and not
restored (40_container_parser.md R80 to R82). -/
def Obligations.LoadShortHeaderIsError : Prop :=
  ∀ (s : State) (v : Byte) (tail : List Byte),
    (s.src = .stream magic → exec .load s = .next { s with result := .load .error true }) ∧
    (s.src = .stream (magic ++ v :: tail) → tail.length < 7 →
      exec .load s = .next { s with tapVersion := v, result := .load .error true })

/-- Capacity: a declared length above `TAPE_CAPACITY` is Error and keeps the tape (40_container_parser.md R83). -/
def Obligations.LoadAboveCapacityIsError : Prop :=
  ∀ (s : State) (v r0 r1 r2 l0 l1 l2 l3 : Byte) (P : List Byte),
    s.src = .stream (magic ++ v :: r0 :: r1 :: r2 :: l0 :: l1 :: l2 :: l3 :: P) →
    s.cfg.tapeCapacity < l0.toNat + l1.toNat * 2 ^ 8 + l2.toNat * 2 ^ 16 + l3.toNat * 2 ^ 24 →
    exec .load s = .next { s with tapVersion := v, result := .load .error true }

/-- Success: the payload replaces the tape, read whole and no further (40_container_parser.md R84, 20_memory.md
R40). -/
def Obligations.LoadReplacesTheTape : Prop :=
  ∀ (s : State) (v r0 r1 r2 l0 l1 l2 l3 : Byte) (P : List Byte) (len : Nat),
    s.src = .stream (magic ++ v :: r0 :: r1 :: r2 :: l0 :: l1 :: l2 :: l3 :: P) →
    len = l0.toNat + l1.toNat * 2 ^ 8 + l2.toNat * 2 ^ 16 + l3.toNat * 2 ^ 24 →
    len ≤ s.cfg.tapeCapacity → len ≤ P.length →
    exec .load s = .next { s with
      tapVersion := v
      tapeData := Memory.ofBytes (P.take len)
      tapeLength := BitVec.ofNat 32 len
      tapeFilled := BitVec.ofNat 32 len
      result := .load .none true }

/-- After a successful LOAD every payload read inside the tape answers the container's byte and changes nothing,
and a read past it is the fault (20_memory.md R36, R39, 40_container_parser.md R84). -/
def Obligations.LoadedPayloadReadsBack : Prop :=
  ∀ (s : State) (v r0 r1 r2 l0 l1 l2 l3 : Byte) (P : List Byte) (len : Nat),
    s.src = .stream (magic ++ v :: r0 :: r1 :: r2 :: l0 :: l1 :: l2 :: l3 :: P) →
    len = l0.toNat + l1.toNat * 2 ^ 8 + l2.toNat * 2 ^ 16 + l3.toNat * 2 ^ 24 →
    len ≤ s.cfg.tapeCapacity → len ≤ P.length →
    ∃ t, exec .load s = .next t ∧
      (∀ (i : Nat) (b : Byte), i < len → P[i]? = some b → memRead i t = .next (b, t)) ∧
      (∀ i : Nat, len ≤ i → memRead i t = .fault .readPastEnd)

/-- A truncated payload: REJECT leaves no tape, LEGACY the partial buffer with the declared length
(40_container_parser.md R85, R86). -/
def Obligations.LoadTruncatedPayload : Prop :=
  ∀ (s : State) (v r0 r1 r2 l0 l1 l2 l3 : Byte) (P : List Byte) (len : Nat),
    s.src = .stream (magic ++ v :: r0 :: r1 :: r2 :: l0 :: l1 :: l2 :: l3 :: P) →
    len = l0.toNat + l1.toNat * 2 ^ 8 + l2.toNat * 2 ^ 16 + l3.toNat * 2 ^ 24 →
    len ≤ s.cfg.tapeCapacity → P.length < len →
    (s.cfg.truncPolicy = .reject →
      exec .load s = .next { s with
        tapVersion := v, tapeData := [], tapeLength := 0, tapeFilled := 0,
        result := .load .tapTooShort true }) ∧
    (s.cfg.truncPolicy = .legacy →
      exec .load s = .next { s with
        tapVersion := v
        tapeData := Memory.ofBytes P
        tapeLength := BitVec.ofNat 32 len
        tapeFilled := BitVec.ofNat 32 P.length
        result := .load .tapTooShort true })

/-- Every LOAD completes with one code; the source is released exactly where it was opened
(40_container_parser.md R87, 60_exceptions.md R116). -/
def Obligations.LoadReleasesExactlyWhatItOpened : Prop :=
  ∀ s : State, ∃ t e, exec .load s = .next t ∧
    ((s.src = .notFound ∧ e = .fileNotFound ∧ t.result = .load e false) ∨
     (s.src ≠ .notFound ∧ e ≠ .fileNotFound ∧ t.result = .load e true))

/-- LOAD writes no cursor, mode or signal register on any outcome (40_container_parser.md R88), nor any field of
the model's own (DESIGN CHOICE, log 1 to 5 and 10) but the result. -/
def Obligations.LoadKeepsCursorModeAndSignals : Prop :=
  ∀ s : State, ∃ t, exec .load s = .next t ∧
    t.tapePos = s.tapePos ∧ t.cyclesLeft = s.cyclesLeft ∧ t.halfwayCycles = s.halfwayCycles ∧
    t.mode = s.mode ∧ t.sigOut = s.sigOut ∧ t.sigIn = s.sigIn ∧
    t.cfg = s.cfg ∧ t.pending = s.pending ∧ t.src = s.src ∧ t.draws = s.draws ∧
    t.refusals = s.refusals

/-- LOAD reads at most `20 + len` bytes: what stands after them does not matter on a successful load
(40_container_parser.md R89), and the reserved bytes never do (30_encoding.md R69). The port
`src`, which keeps the stream, is the model's choice (DESIGN CHOICE, log 3). -/
def Obligations.LoadIgnoresTrailingAndReservedBytes : Prop :=
  ∀ (s : State) (v r0 r1 r2 q0 q1 q2 l0 l1 l2 l3 : Byte) (P tail : List Byte),
    ∃ t, exec .load { s with src := .stream (magic ++ v :: r0 :: r1 :: r2 :: l0 :: l1 :: l2 :: l3 :: P) } =
        .next t ∧
      exec .load { s with src := .stream (magic ++ v :: q0 :: q1 :: q2 :: l0 :: l1 :: l2 :: l3 :: P) } =
        .next { t with src := .stream (magic ++ v :: q0 :: q1 :: q2 :: l0 :: l1 :: l2 :: l3 :: P) } ∧
      (t.result = .load .none true →
        exec .load
            { s with src := .stream (magic ++ v :: r0 :: r1 :: r2 :: l0 :: l1 :: l2 :: l3 :: (P ++ tail)) } =
          .next { t with
            src := .stream (magic ++ v :: r0 :: r1 :: r2 :: l0 :: l1 :: l2 :: l3 :: (P ++ tail)) })

/-! ## SAVE, RESET, SETBTN, SIGNALS -/

/-- SAVE always fails with `SAVE_ERR`, which is no success code, and writes no state (40_container_parser.md R90,
00_scope.md R8). -/
def Obligations.SaveAlwaysFails : Prop :=
  ∀ s : State, exec .save s = .next { s with result := .save s.cfg.saveErr } ∧
    (s.cfg.wf = true → s.cfg.saveErr ≠ .none)

/-- RESET sets the cursor to `(0, 1, 0)` and keeps everything else (42_interface.md R111). -/
def Obligations.ResetSetsTheCursorOnly : Prop :=
  ∀ s : State, exec .reset s =
    .next { s with tapePos := 0, cyclesLeft := 1, halfwayCycles := 0, result := .nothing }

/-- RESET twice is RESET once (42_interface.md R111). -/
def Obligations.ResetTwiceIsResetOnce : Prop :=
  ∀ s : State, ∃ t, exec .reset s = .next t ∧ exec .reset t = .next t

/-- SETBTN writes the mode and nothing else (42_interface.md R112). -/
def Obligations.SetbtnWritesTheModeOnly : Prop :=
  ∀ (s : State) (m : Mode), exec (.setbtn m) s = .next { s with mode := m, result := .nothing }

/-- SIGNALS stores the host's flags, Motor in bit 1 and Write in bit 0, and returns `sigOut` as it was
(42_interface.md R110, 30_encoding.md R57). -/
def Obligations.SignalsExchangesTheFlags : Prop :=
  ∀ (s : State) (motor write : Bool), ∃ g : Sig, g.getLsbD 1 = motor ∧ g.getLsbD 0 = write ∧
    exec (.signals motor write) s = .next { s with sigIn := g, result := .signals s.sigOut }

/-- Leaving Play and coming back keeps the cursor and the tape, so the pulse resumes (42_interface.md R113). -/
def Obligations.ModeChangeKeepsTheCursor : Prop :=
  ∀ (s : State) (m : Mode), m ≠ .play → ∃ t u v, exec (.setbtn m) s = .next t ∧ exec .update t = .next u ∧
    exec (.setbtn .play) u = .next v ∧ v.mode = .play ∧ v.cursor = s.cursor ∧ v.tapeImage = s.tapeImage ∧
    v.sigIn = s.sigIn

/-! ## UPDATE -/

/-- Done (41_pulse_player.md R93). -/
def Obligations.UpdateInDone : Prop :=
  ∀ s : State, s.mode = .done →
    exec .update s = .next { s with sigOut := 0b00, result := .update .minus1 .done }

/-- None, Stop and Pause clear `Sense` and hold `Read` (41_pulse_player.md R94, R104). -/
def Obligations.UpdateWhileStopped : Prop :=
  ∀ s : State, s.mode = .none ∨ s.mode = .stop ∨ s.mode = .pause →
    exec .update s = .next { s with
      sigOut := s.sigOut &&& 0b10
      result := .update (if s.tapeLength = 0 then .minus1 else .pos s.tapePos) .none }

/-- Record sets `Sense`, holds everything else, and reports whether the motor asks it to record
(41_pulse_player.md R103, R104). -/
def Obligations.UpdateInRecord : Prop :=
  ∀ s : State, s.mode = .record →
    exec .update s = .next { s with
      sigOut := (s.sigOut &&& 0b10) ||| 0b01
      result := .update (if s.tapeLength = 0 then .minus1 else .pos s.tapePos)
        (if s.sigIn.getLsbD 1 = true then .notHandled else .running) }

/-- Play with the motor off sets `Sense` and nothing more (41_pulse_player.md R95, R104). -/
def Obligations.UpdateStallsWithoutMotor : Prop :=
  ∀ s : State, s.mode = .play → s.sigIn.getLsbD 1 = false →
    exec .update s = .next { s with
      sigOut := (s.sigOut &&& 0b10) ||| 0b01
      result := .update (if s.tapeLength = 0 then .minus1 else .pos s.tapePos) .running }

/-- A pulse in progress: the countdown decrements and `Read` is 1 exactly below the halfway point
(41_pulse_player.md R96, R97, R98). -/
def Obligations.UpdateCountsDown : Prop :=
  ∀ s : State, s.mode = .play → s.sigIn.getLsbD 1 = true → 2 ≤ s.cyclesLeft.toNat →
    exec .update s = .next { s with
      cyclesLeft := s.cyclesLeft - 1
      sigOut := if s.cyclesLeft.toNat - 1 < s.halfwayCycles.toNat then 0b11 else 0b01
      result := .update (if s.tapeLength = 0 then .minus1 else .pos s.tapePos) .running }

/-- An elapsed pulse at end of data: `Read` off, nothing fetched, the countdown at its floor
(41_pulse_player.md R96, R99). -/
def Obligations.UpdateIdlesAtEndOfData : Prop :=
  ∀ s : State, s.mode = .play → s.sigIn.getLsbD 1 = true → s.cyclesLeft.toNat ≤ 1 →
    s.tapeLength.toNat ≤ s.tapePos.toNat →
    exec .update s = .next { s with
      cyclesLeft := 0
      sigOut := 0b01
      result := .update (if s.tapeLength = 0 then .minus1 else .pos s.tapePos) .running }

/-- A short pulse is fetched: `8 · b` cycles, half of that the halfway point, the cursor one further
(30_encoding.md R71, 41_pulse_player.md R100, R101). -/
def Obligations.UpdateFetchesAShortPulse : Prop :=
  ∀ (s : State) (b : Byte), s.mode = .play → s.sigIn.getLsbD 1 = true → s.cyclesLeft.toNat ≤ 1 →
    s.Holds s.tapePos.toNat b → b ≠ 0x00 →
    exec .update s = .next { s with
      tapePos := s.tapePos + 1
      cyclesLeft := BitVec.ofNat 24 (8 * b.toNat)
      halfwayCycles := BitVec.ofNat 24 (4 * b.toNat)
      sigOut := 0b01
      result := .update (.pos (s.tapePos + 1)) .running }

/-- A version-1 escape is fetched: its 24-bit little-endian count, the cursor four further (30_encoding.md R72,
20_memory.md R41, 41_pulse_player.md R100, R101). -/
def Obligations.UpdateFetchesAVersionOneEscape : Prop :=
  ∀ (s : State) (b0 b1 b2 : Byte), s.mode = .play → s.sigIn.getLsbD 1 = true → s.cyclesLeft.toNat ≤ 1 →
    s.tapVersion = 1 → s.Holds s.tapePos.toNat 0x00 → s.Holds (s.tapePos.toNat + 1) b0 →
    s.Holds (s.tapePos.toNat + 2) b1 → s.Holds (s.tapePos.toNat + 3) b2 →
    let L := b0.toNat + b1.toNat * 256 + b2.toNat * 65536
    exec .update s = .next { s with
      tapePos := s.tapePos + 4
      cyclesLeft := BitVec.ofNat 24 L
      halfwayCycles := BitVec.ofNat 24 (L / 2)
      sigOut := 0b01
      result := .update (.pos (s.tapePos + 4)) .running }

/-- The escape of every other version is fetched: 65535 cycles, the cursor one further (30_encoding.md R73,
41_pulse_player.md R100, R101). -/
def Obligations.UpdateFetchesAFixedEscape : Prop :=
  ∀ s : State, s.mode = .play → s.sigIn.getLsbD 1 = true → s.cyclesLeft.toNat ≤ 1 →
    s.tapVersion ≠ 1 → s.Holds s.tapePos.toNat 0x00 →
    exec .update s = .next { s with
      tapePos := s.tapePos + 1
      cyclesLeft := 65535
      halfwayCycles := 32767
      sigOut := 0b01
      result := .update (.pos (s.tapePos + 1)) .running }

/-- A truncated version-1 escape loads no pulse and moves the cursor to the end of the tape
(41_pulse_player.md R102). -/
def Obligations.UpdateAtATruncatedEscape : Prop :=
  ∀ s : State, s.mode = .play → s.sigIn.getLsbD 1 = true → s.cyclesLeft.toNat ≤ 1 →
    s.tapVersion = 1 → s.Holds s.tapePos.toNat 0x00 → s.tapeLength.toNat < s.tapePos.toNat + 4 →
    exec .update s = .next { s with
      tapePos := s.tapeLength
      cyclesLeft := 0
      sigOut := 0b01
      result := .update (.pos s.tapeLength) .running }

/-- An indeterminate byte at the cursor, with a version other than 1: whatever byte is drawn is the symbol, and
the draw counter moves on (20_memory.md R39, 93_implementation_defined.md I1). That a draw is
the opaque `Config.drawByte` at the counter `draws`, which it advances by one, is the model's choice (DESIGN CHOICE,
log 5); the statement holds for every value of both. -/
def Obligations.UpdateFetchesADrawnByte : Prop :=
  ∀ s : State, s.mode = .play → s.sigIn.getLsbD 1 = true → s.cyclesLeft.toNat ≤ 1 → s.tapVersion ≠ 1 →
    s.tapeFilled.toNat ≤ s.tapePos.toNat → s.tapePos.toNat < s.tapeLength.toNat →
    ∃ d : Byte, d = Config.drawByte s.draws ∧
      exec .update s = .next { s with
        tapePos := s.tapePos + 1
        cyclesLeft := if d = 0x00 then 65535 else BitVec.ofNat 24 (8 * d.toNat)
        halfwayCycles := if d = 0x00 then 32767 else BitVec.ofNat 24 (4 * d.toNat)
        sigOut := 0b01
        draws := s.draws + 1
        result := .update (.pos (s.tapePos + 1)) .running }

/-- The same with version 1: a drawn byte that is not the escape is a short pulse; a drawn escape takes three
more draws, or, with fewer than three indices left, loads no pulse (20_memory.md R39, 41_pulse_player.md R100,
R102). That a draw is the opaque `Config.drawByte` at the counter `draws`, which it advances by one, is the model's
choice (DESIGN CHOICE, log 5); the statement holds for every value of both. -/
def Obligations.UpdateFetchesADrawnVersionOneSymbol : Prop :=
  ∀ s : State, s.mode = .play → s.sigIn.getLsbD 1 = true → s.cyclesLeft.toNat ≤ 1 → s.tapVersion = 1 →
    s.tapeFilled.toNat ≤ s.tapePos.toNat → s.tapePos.toNat < s.tapeLength.toNat →
    ∃ d b0 b1 b2 : Byte, d = Config.drawByte s.draws ∧ b0 = Config.drawByte (s.draws + 1) ∧
      b1 = Config.drawByte (s.draws + 2) ∧ b2 = Config.drawByte (s.draws + 3) ∧
      let L := b0.toNat + b1.toNat * 256 + b2.toNat * 65536
      exec .update s = .next (
        if d ≠ 0x00 then { s with
          tapePos := s.tapePos + 1
          cyclesLeft := BitVec.ofNat 24 (8 * d.toNat)
          halfwayCycles := BitVec.ofNat 24 (4 * d.toNat)
          sigOut := 0b01
          draws := s.draws + 1
          result := .update (.pos (s.tapePos + 1)) .running }
        else if s.tapeLength.toNat < s.tapePos.toNat + 4 then { s with
          tapePos := s.tapeLength
          cyclesLeft := 0
          sigOut := 0b01
          draws := s.draws + 1
          result := .update (.pos s.tapeLength) .running }
        else { s with
          tapePos := s.tapePos + 4
          cyclesLeft := BitVec.ofNat 24 L
          halfwayCycles := BitVec.ofNat 24 (L / 2)
          sigOut := 0b01
          draws := s.draws + 4
          result := .update (.pos (s.tapePos + 4)) .running })

/-- A version-1 escape that straddles `tapeFilled`: its first byte is written, of the three after it those below
`tapeFilled` are read and each of the others is a draw of its own, in order (20_memory.md R39, 41_pulse_player.md
R100). The three clauses are the three places of `tapeFilled` inside the symbol. That a draw is the
opaque `Config.drawByte` at the counter `draws`, which it advances by one, is the model's choice (DESIGN CHOICE,
log 5); the statement holds for every value of both. -/
def Obligations.UpdateFetchesAStraddlingVersionOneEscape : Prop :=
  ∀ s : State, s.mode = .play → s.sigIn.getLsbD 1 = true → s.cyclesLeft.toNat ≤ 1 → s.tapVersion = 1 →
    s.Holds s.tapePos.toNat 0x00 → s.tapePos.toNat + 4 ≤ s.tapeLength.toNat →
    let d := fun k => Config.drawByte (s.draws + k)
    let fetched := fun (b0 b1 b2 : Byte) (drawn : Nat) =>
      let L := b0.toNat + b1.toNat * 256 + b2.toNat * 65536
      { s with
        tapePos := s.tapePos + 4
        cyclesLeft := BitVec.ofNat 24 L
        halfwayCycles := BitVec.ofNat 24 (L / 2)
        sigOut := 0b01
        draws := s.draws + drawn
        result := .update (.pos (s.tapePos + 4)) .running }
    (s.tapeFilled.toNat = s.tapePos.toNat + 1 →
      exec .update s = .next (fetched (d 0) (d 1) (d 2) 3)) ∧
    (∀ b0, s.tapeFilled.toNat = s.tapePos.toNat + 2 → s.Holds (s.tapePos.toNat + 1) b0 →
      exec .update s = .next (fetched b0 (d 0) (d 1) 2)) ∧
    (∀ b0 b1, s.tapeFilled.toNat = s.tapePos.toNat + 3 → s.Holds (s.tapePos.toNat + 1) b0 →
      s.Holds (s.tapePos.toNat + 2) b1 → exec .update s = .next (fetched b0 b1 (d 0) 1))

/-- The payload read (20_memory.md R39): the fault past the payload, the byte below `tapeFilled`, a draw between.
That a draw is the opaque `Config.drawByte` at the counter `draws`, which it advances by one, is the model's choice
(DESIGN CHOICE, log 5); the statement holds for every value of both. -/
def Obligations.PayloadReadHasThreeOutcomes : Prop :=
  ∀ (s : State) (i : Nat),
    (s.tapeLength.toNat ≤ i → memRead i s = .fault .readPastEnd) ∧
    (∀ b, s.Holds i b → memRead i s = .next (b, s)) ∧
    (s.tapeFilled.toNat ≤ i → i < s.tapeLength.toNat →
      memRead i s = .next (Config.drawByte s.draws, { s with draws := s.draws + 1 }))

/-- What exec of each payload symbol does: the cursor's advance and the counter's load, which are what the symbol
decides of its fetch (30_encoding.md R71 to R73, 41_pulse_player.md R100, R101). That exec of a symbol by itself does
this in every state and mode and keeps all else is the model's choice (DEDUCED, log 11): in the spec only UPDATE runs
a symbol. -/
def Obligations.SymbolsLoadTheirPulses : Prop :=
  ∀ (s : State) (b b0 b1 b2 : Byte),
    exec (.pulseShort b) s = .next { s with
      tapePos := s.tapePos + 1
      cyclesLeft := BitVec.ofNat 24 (8 * b.toNat)
      halfwayCycles := BitVec.ofNat 24 (4 * b.toNat) } ∧
    exec (.escV1 b0 b1 b2) s = .next { s with
      tapePos := s.tapePos + 4
      cyclesLeft := BitVec.ofNat 24 (b0.toNat + b1.toNat * 256 + b2.toNat * 65536)
      halfwayCycles := BitVec.ofNat 24 ((b0.toNat + b1.toNat * 256 + b2.toNat * 65536) / 2) } ∧
    exec .escFixed s = .next { s with
      tapePos := s.tapePos + 1, cyclesLeft := 65535, halfwayCycles := 32767 }

/-- UPDATE runs the symbol whose bytes stand at the cursor: it is exec of that symbol on the state with the
signals `Sense = 1, Read = 0` and the countdown elapsed, with UPDATE's result. What UPDATE does is 41_pulse_player.md
R99 to R101 and R104; its split into exec of a symbol on a prepared state is the model's choice (DEDUCED, log 11). -/
def Obligations.UpdateRunsTheSymbolAtTheCursor : Prop :=
  ∀ (s : State) (y : Symbol), s.mode = .play → s.sigIn.getLsbD 1 = true → s.cyclesLeft.toNat ≤ 1 →
    y.wf = true → y.fitsVersion s.tapVersion = true →
    (∀ (k : Nat) (b : Byte), (encode (symbolInstr y))[k]? = some b → s.Holds (s.tapePos.toNat + k) b) →
    ∃ t, exec (symbolInstr y) { s with sigOut := 0b01, cyclesLeft := 0 } = .next t ∧
      exec .update s = .next { t with result := .update (.pos t.tapePos) .running }

/-- `Sense` after an UPDATE follows the mode; `Read` changes only in Play with the motor on, and Done clears it
(60_exceptions.md R126, 10_state.md R33). -/
def Obligations.UpdateGatesTheSignalsByMode : Prop :=
  ∀ s : State, ∃ t, exec .update s = .next t ∧
    t.sigOut.getLsbD 0 = decide (s.mode = .play ∨ s.mode = .record) ∧
    (s.mode = .done → t.sigOut.getLsbD 1 = false) ∧
    (s.mode ≠ .done → ¬(s.mode = .play ∧ s.sigIn.getLsbD 1 = true) →
      t.sigOut.getLsbD 1 = s.sigOut.getLsbD 1)

/-- After an UPDATE in Play with the motor on, `Read = 1` exactly when `1 ≤ cyclesLeft < halfwayCycles`
(10_state.md R31). -/
def Obligations.ReadIsHighExactlyBelowHalfway : Prop :=
  ∀ s : State, s.mode = .play → s.sigIn.getLsbD 1 = true → ∃ t, exec .update s = .next t ∧
    (t.sigOut.getLsbD 1 = true ↔ 1 ≤ t.cyclesLeft.toNat ∧ t.cyclesLeft.toNat < t.halfwayCycles.toNat) ∧
    (t.phase = some .pulseHigh ↔ t.sigOut.getLsbD 1 = true)

/-- UPDATE's result and handler status, in every mode (41_pulse_player.md R104, R105). -/
def Obligations.UpdateResultFollowsModeAndLength : Prop :=
  ∀ s : State, ∃ t p h, exec .update s = .next t ∧ t.result = .update p h ∧
    (p = .minus1 ↔ s.mode = .done ∨ s.tapeLength = 0) ∧ (p = .minus1 ∨ p = .pos t.tapePos) ∧
    (h = .done ↔ s.mode = .done) ∧ (h = .none ↔ s.mode = .none ∨ s.mode = .stop ∨ s.mode = .pause) ∧
    (h = .notHandled ↔ s.mode = .record ∧ s.sigIn.getLsbD 1 = true)

/-- UPDATE never moves the cursor back, nor past the end of the tape from within it (10_state.md R17, R33). -/
def Obligations.UpdateMovesTheCursorForward : Prop :=
  ∀ s : State, ∃ t, exec .update s = .next t ∧ s.tapePos ≤ t.tapePos ∧
    t.tapePos.toNat ≤ max s.tapePos.toNat s.tapeLength.toNat

/-- Every version other than 1 decodes like version 0 (30_encoding.md R68). -/
def Obligations.OtherVersionsDecodeLikeZero : Prop :=
  ∀ (s : State) (v : Byte), v ≠ 1 → ∃ t, exec .update { s with tapVersion := 0 } = .next t ∧
    exec .update { s with tapVersion := v } = .next { t with tapVersion := v }

/-! ## Whole-machine rules -/

/-- Power-on reset (70_reset_and_hazards.md R131). -/
def Obligations.PowerOnResetState : Prop :=
  State.reset.tapeData = [] ∧ State.reset.tapeLength = 0 ∧ State.reset.tapeFilled = 0 ∧
  State.reset.tapVersion = 0 ∧ State.reset.tapePos = 0 ∧ State.reset.cyclesLeft = 1 ∧
  State.reset.halfwayCycles = 0 ∧ State.reset.mode = .none ∧ State.reset.sigOut = 0b00 ∧
  State.reset.sigIn = 0b00

/-- Every instruction completes in every state: no operation faults, so the payload is never read past its end,
and none is refused (60_exceptions.md R117, R130, 41_pulse_player.md R100). Of the payload symbols it says so for
exec of a symbol by itself, the model's choice (DEDUCED, log 11). -/
def Obligations.EveryInstructionCompletes : Prop :=
  ∀ (i : Instr) (s : State), ∃ t, exec i s = .next t

/-- The access matrix (10_state.md R34): each register is written only by the operations the matrix names. Of the
model's own fields (DESIGN CHOICE, log 1 to 3, 5 and 10) UPDATE alone writes the draw counter, and no operation
the parameters, the queue, the port or the mark of refusals. -/
def Obligations.OperationsWriteOnlyTheirRegisters : Prop :=
  ∀ (i : Instr) (s : State), i.isCommand = true → ∃ t, exec i s = .next t ∧
    (i ≠ .load → t.tapeImage = s.tapeImage) ∧
    (i ≠ .reset → i ≠ .update → t.cursor = s.cursor) ∧
    ((∀ m, i ≠ .setbtn m) → t.mode = s.mode) ∧
    (i ≠ .update → t.sigOut = s.sigOut ∧ t.draws = s.draws) ∧
    ((∀ m w, i ≠ .signals m w) → t.sigIn = s.sigIn) ∧
    t.cfg = s.cfg ∧ t.pending = s.pending ∧ t.src = s.src ∧ t.refusals = s.refusals

/-- No instruction but LOAD changes a byte of the payload: every index reads, in the buffer, what it read before
(20_memory.md R36). Of the payload symbols it says so, and that they complete, for exec of a symbol by itself, the
model's choice (DEDUCED, log 11). -/
def Obligations.OnlyLoadChangesTheBuffer : Prop :=
  ∀ (i : Instr) (s : State), i ≠ .load → ∃ t, exec i s = .next t ∧
    ∀ a : Nat, t.tapeData.read a = s.tapeData.read a

/-- A result is no state: no command's effect depends on what an earlier one returned (10_state.md R28).
The field that holds the last result is the model's choice (DESIGN CHOICE, log 4). -/
def Obligations.ResultsAreNeverRead : Prop :=
  ∀ (i : Instr) (s : State) (r : Result), i.isCommand = true → exec i { s with result := r } = exec i s

/-- The host's Write flag is stored and never read (42_interface.md R110, 10_state.md R27): flipping it changes
no command's effect but in the bit itself. -/
def Obligations.WriteFlagIsNeverRead : Prop :=
  ∀ (i : Instr) (s : State), i.isCommand = true → (∀ m w, i ≠ .signals m w) →
    ∃ t, exec i s = .next t ∧
      exec i { s with sigIn := s.sigIn ^^^ 0b01 } = .next { t with sigIn := s.sigIn ^^^ 0b01 }

/-- Determinism (41_pulse_player.md R109): on a tape without indeterminate bytes no instruction draws, and none
depends on the draws. The draw counter it is stated on is the model's choice (DESIGN CHOICE, log 5), and so is exec of
a payload symbol by itself (DEDUCED, log 11). -/
def Obligations.FilledTapesNeedNoDraws : Prop :=
  ∀ (i : Instr) (s : State) (d : Nat), s.AllFilled → ∃ t, exec i s = .next t ∧ t.draws = s.draws ∧
    exec i { s with draws := d } = .next { t with draws := d }

/-- The invariant holds at power-on (10_state.md R33). Its clauses on the parameters and on the buffer's list are
about the model's own forms (log 1, log 7). -/
def Obligations.InvariantHoldsAtReset : Prop := State.reset.Inv

/-- Every step keeps the invariant (10_state.md R33). Its clauses on the parameters and on the buffer's list are about
the model's own forms (log 1, log 7), and so is the step that idles (log 2). -/
def Obligations.StepKeepsTheInvariant : Prop :=
  ∀ s t : State, s.Inv → step s = .next t → t.Inv

/-- Where every operation the host has issued is one of the block's, the step answers next, refuses nothing, and what
it leaves issued is again only the block's: an operation completes (60_exceptions.md R130) and issues none. The queue
of issued operations, the idle step where it is empty, and the list of refused words are the model's choice (DESIGN
CHOICE, log 2 and 10). -/
def Obligations.StepKeepsIssuedCommandsDecodable : Prop :=
  ∀ s : State, s.AllIssuedDecode → ∃ t, step s = .next t ∧ t.AllIssuedDecode ∧ t.refusals = s.refusals

/-- A run is never stopped, for any number of steps, from any state, whatever the host issues; its refusals only
grow, and not at all where the host issues only the block's operations (60_exceptions.md R130). That a step with no
operation issued idles, and the list of refused words, are the model's choice (DESIGN CHOICE, log 2 and 10). -/
def Obligations.RunsOfIssuedCommandsNeverStop : Prop :=
  ∀ (s : State) (k : Nat), ∃ t, Sys2Proof.core.run k s = .next t ∧ s.refusals <+: t.refusals ∧
    (s.AllIssuedDecode → t.refusals = s.refusals)

/-! ## Runs of UPDATEs -/

/-- The end of the tape is stable (41_pulse_player.md R107). -/
def Obligations.EndOfTapeIsStable : Prop :=
  ∀ (s : State) (n : Nat), s.mode = .play → s.sigIn.getLsbD 1 = true → s.cyclesLeft = 0 →
    s.tapeLength.toNat ≤ s.tapePos.toNat → 1 ≤ n →
    updates n s = .next { s with
      sigOut := 0b01
      result := .update (if s.tapeLength = 0 then .minus1 else .pos s.tapePos) .running }

/-- The waveform of one pulse (41_pulse_player.md R106). The state is that after the UPDATE that fetched a pulse
of length `L = cyclesLeft`; every later UPDATE runs in Play with the motor on. -/
def Obligations.PulseWaveform : Prop :=
  ∀ (s : State) (L : Nat), s.mode = .play → s.sigIn.getLsbD 1 = true → s.cyclesLeft.toNat = L →
    s.halfwayCycles.toNat = L / 2 →
    (∀ j, 1 ≤ j → j < L → ∃ t, updates j s = .next t ∧ t.cyclesLeft.toNat = L - j ∧
      t.halfwayCycles = s.halfwayCycles ∧ t.tapePos = s.tapePos ∧ t.sigOut.getLsbD 0 = true ∧
      (t.sigOut.getLsbD 1 = true ↔ L - L / 2 + 1 ≤ j)) ∧
    (∃ t, updates (max L 1) s = .next t ∧ t.sigOut.getLsbD 1 = false ∧
      (s.tapeLength.toNat ≤ s.tapePos.toNat → t.cyclesLeft = 0 ∧ t.tapePos = s.tapePos) ∧
      (s.tapePos.toNat < s.tapeLength.toNat →
        s.tapePos.toNat < t.tapePos.toNat ∧ t.tapePos.toNat ≤ s.tapeLength.toNat))

/-- The termination bound (41_pulse_player.md R108). A wholly loaded tape without a truncated symbol, played from
the cursor RESET leaves, reaches its end at UPDATE `1 + Σ_{k<n} max(Lk, 1) + Ln`, never before, and stays there;
every UPDATE completes and, on a tape that is not empty, returns a position from 1 to `tapeLength`. -/
def Obligations.TapePlaysToItsEnd : Prop :=
  ∀ (s : State) (P : List Byte) (pulses : List Nat), s.mode = .play → s.sigIn.getLsbD 1 = true →
    P.length < 2 ^ 32 → s.tapeData = Memory.ofBytes P → s.tapeLength = BitVec.ofNat 32 P.length →
    s.tapeFilled = s.tapeLength → s.cursor = (0, 1, 0) → DecodesToPulses s.tapVersion P pulses →
    ∀ n : Nat, ∃ t, updates n s = .next t ∧ (t.AtEndOfTape ↔ tapeTime pulses ≤ n) ∧
      (1 ≤ n → 1 ≤ P.length →
        ∃ p : Pos, t.result = .update (.pos p) .running ∧ 1 ≤ p.toNat ∧ p.toNat ≤ P.length)
end

