-- ==== Sys2Proof/Laws/State.lean ====
section
/-!
SUPPORT. One lemma per field per update, true by rfl, so that no proof unfolds a record update.
-/

namespace Sys2Proof.Machine

variable (s : State)

/-! ### `setTape` writes the buffer, its length and its filled count -/

@[simp] theorem State.setTape_tapeData (bytes : List Byte) (len filled : Pos) : (s.setTape bytes len filled).tapeData = Memory.ofBytes bytes := rfl
@[simp] theorem State.setTape_tapeLength (bytes : List Byte) (len filled : Pos) : (s.setTape bytes len filled).tapeLength = len := rfl
@[simp] theorem State.setTape_tapeFilled (bytes : List Byte) (len filled : Pos) : (s.setTape bytes len filled).tapeFilled = filled := rfl
@[simp] theorem State.setTape_tapVersion (bytes : List Byte) (len filled : Pos) : (s.setTape bytes len filled).tapVersion = s.tapVersion := rfl
@[simp] theorem State.setTape_tapePos (bytes : List Byte) (len filled : Pos) : (s.setTape bytes len filled).tapePos = s.tapePos := rfl
@[simp] theorem State.setTape_cyclesLeft (bytes : List Byte) (len filled : Pos) : (s.setTape bytes len filled).cyclesLeft = s.cyclesLeft := rfl
@[simp] theorem State.setTape_halfwayCycles (bytes : List Byte) (len filled : Pos) : (s.setTape bytes len filled).halfwayCycles = s.halfwayCycles := rfl
@[simp] theorem State.setTape_mode (bytes : List Byte) (len filled : Pos) : (s.setTape bytes len filled).mode = s.mode := rfl
@[simp] theorem State.setTape_sigOut (bytes : List Byte) (len filled : Pos) : (s.setTape bytes len filled).sigOut = s.sigOut := rfl
@[simp] theorem State.setTape_sigIn (bytes : List Byte) (len filled : Pos) : (s.setTape bytes len filled).sigIn = s.sigIn := rfl
@[simp] theorem State.setTape_cfg (bytes : List Byte) (len filled : Pos) : (s.setTape bytes len filled).cfg = s.cfg := rfl
@[simp] theorem State.setTape_pending (bytes : List Byte) (len filled : Pos) : (s.setTape bytes len filled).pending = s.pending := rfl
@[simp] theorem State.setTape_src (bytes : List Byte) (len filled : Pos) : (s.setTape bytes len filled).src = s.src := rfl
@[simp] theorem State.setTape_result (bytes : List Byte) (len filled : Pos) : (s.setTape bytes len filled).result = s.result := rfl
@[simp] theorem State.setTape_draws (bytes : List Byte) (len filled : Pos) : (s.setTape bytes len filled).draws = s.draws := rfl
@[simp] theorem State.setTape_refusals (bytes : List Byte) (len filled : Pos) : (s.setTape bytes len filled).refusals = s.refusals := rfl

/-! ### `setVersion` writes the version -/

@[simp] theorem State.setVersion_tapeData (v : Byte) : (s.setVersion v).tapeData = s.tapeData := rfl
@[simp] theorem State.setVersion_tapeLength (v : Byte) : (s.setVersion v).tapeLength = s.tapeLength := rfl
@[simp] theorem State.setVersion_tapeFilled (v : Byte) : (s.setVersion v).tapeFilled = s.tapeFilled := rfl
@[simp] theorem State.setVersion_tapVersion (v : Byte) : (s.setVersion v).tapVersion = v := rfl
@[simp] theorem State.setVersion_tapePos (v : Byte) : (s.setVersion v).tapePos = s.tapePos := rfl
@[simp] theorem State.setVersion_cyclesLeft (v : Byte) : (s.setVersion v).cyclesLeft = s.cyclesLeft := rfl
@[simp] theorem State.setVersion_halfwayCycles (v : Byte) : (s.setVersion v).halfwayCycles = s.halfwayCycles := rfl
@[simp] theorem State.setVersion_mode (v : Byte) : (s.setVersion v).mode = s.mode := rfl
@[simp] theorem State.setVersion_sigOut (v : Byte) : (s.setVersion v).sigOut = s.sigOut := rfl
@[simp] theorem State.setVersion_sigIn (v : Byte) : (s.setVersion v).sigIn = s.sigIn := rfl
@[simp] theorem State.setVersion_cfg (v : Byte) : (s.setVersion v).cfg = s.cfg := rfl
@[simp] theorem State.setVersion_pending (v : Byte) : (s.setVersion v).pending = s.pending := rfl
@[simp] theorem State.setVersion_src (v : Byte) : (s.setVersion v).src = s.src := rfl
@[simp] theorem State.setVersion_result (v : Byte) : (s.setVersion v).result = s.result := rfl
@[simp] theorem State.setVersion_draws (v : Byte) : (s.setVersion v).draws = s.draws := rfl
@[simp] theorem State.setVersion_refusals (v : Byte) : (s.setVersion v).refusals = s.refusals := rfl

/-! ### `setCursor` writes the cursor -/

@[simp] theorem State.setCursor_tapeData (pos : Pos) (left halfway : Cnt) : (s.setCursor pos left halfway).tapeData = s.tapeData := rfl
@[simp] theorem State.setCursor_tapeLength (pos : Pos) (left halfway : Cnt) : (s.setCursor pos left halfway).tapeLength = s.tapeLength := rfl
@[simp] theorem State.setCursor_tapeFilled (pos : Pos) (left halfway : Cnt) : (s.setCursor pos left halfway).tapeFilled = s.tapeFilled := rfl
@[simp] theorem State.setCursor_tapVersion (pos : Pos) (left halfway : Cnt) : (s.setCursor pos left halfway).tapVersion = s.tapVersion := rfl
@[simp] theorem State.setCursor_tapePos (pos : Pos) (left halfway : Cnt) : (s.setCursor pos left halfway).tapePos = pos := rfl
@[simp] theorem State.setCursor_cyclesLeft (pos : Pos) (left halfway : Cnt) : (s.setCursor pos left halfway).cyclesLeft = left := rfl
@[simp] theorem State.setCursor_halfwayCycles (pos : Pos) (left halfway : Cnt) : (s.setCursor pos left halfway).halfwayCycles = halfway := rfl
@[simp] theorem State.setCursor_mode (pos : Pos) (left halfway : Cnt) : (s.setCursor pos left halfway).mode = s.mode := rfl
@[simp] theorem State.setCursor_sigOut (pos : Pos) (left halfway : Cnt) : (s.setCursor pos left halfway).sigOut = s.sigOut := rfl
@[simp] theorem State.setCursor_sigIn (pos : Pos) (left halfway : Cnt) : (s.setCursor pos left halfway).sigIn = s.sigIn := rfl
@[simp] theorem State.setCursor_cfg (pos : Pos) (left halfway : Cnt) : (s.setCursor pos left halfway).cfg = s.cfg := rfl
@[simp] theorem State.setCursor_pending (pos : Pos) (left halfway : Cnt) : (s.setCursor pos left halfway).pending = s.pending := rfl
@[simp] theorem State.setCursor_src (pos : Pos) (left halfway : Cnt) : (s.setCursor pos left halfway).src = s.src := rfl
@[simp] theorem State.setCursor_result (pos : Pos) (left halfway : Cnt) : (s.setCursor pos left halfway).result = s.result := rfl
@[simp] theorem State.setCursor_draws (pos : Pos) (left halfway : Cnt) : (s.setCursor pos left halfway).draws = s.draws := rfl
@[simp] theorem State.setCursor_refusals (pos : Pos) (left halfway : Cnt) : (s.setCursor pos left halfway).refusals = s.refusals := rfl

/-! ### `setCyclesLeft` writes the countdown -/

@[simp] theorem State.setCyclesLeft_tapeData (left : Cnt) : (s.setCyclesLeft left).tapeData = s.tapeData := rfl
@[simp] theorem State.setCyclesLeft_tapeLength (left : Cnt) : (s.setCyclesLeft left).tapeLength = s.tapeLength := rfl
@[simp] theorem State.setCyclesLeft_tapeFilled (left : Cnt) : (s.setCyclesLeft left).tapeFilled = s.tapeFilled := rfl
@[simp] theorem State.setCyclesLeft_tapVersion (left : Cnt) : (s.setCyclesLeft left).tapVersion = s.tapVersion := rfl
@[simp] theorem State.setCyclesLeft_tapePos (left : Cnt) : (s.setCyclesLeft left).tapePos = s.tapePos := rfl
@[simp] theorem State.setCyclesLeft_cyclesLeft (left : Cnt) : (s.setCyclesLeft left).cyclesLeft = left := rfl
@[simp] theorem State.setCyclesLeft_halfwayCycles (left : Cnt) : (s.setCyclesLeft left).halfwayCycles = s.halfwayCycles := rfl
@[simp] theorem State.setCyclesLeft_mode (left : Cnt) : (s.setCyclesLeft left).mode = s.mode := rfl
@[simp] theorem State.setCyclesLeft_sigOut (left : Cnt) : (s.setCyclesLeft left).sigOut = s.sigOut := rfl
@[simp] theorem State.setCyclesLeft_sigIn (left : Cnt) : (s.setCyclesLeft left).sigIn = s.sigIn := rfl
@[simp] theorem State.setCyclesLeft_cfg (left : Cnt) : (s.setCyclesLeft left).cfg = s.cfg := rfl
@[simp] theorem State.setCyclesLeft_pending (left : Cnt) : (s.setCyclesLeft left).pending = s.pending := rfl
@[simp] theorem State.setCyclesLeft_src (left : Cnt) : (s.setCyclesLeft left).src = s.src := rfl
@[simp] theorem State.setCyclesLeft_result (left : Cnt) : (s.setCyclesLeft left).result = s.result := rfl
@[simp] theorem State.setCyclesLeft_draws (left : Cnt) : (s.setCyclesLeft left).draws = s.draws := rfl
@[simp] theorem State.setCyclesLeft_refusals (left : Cnt) : (s.setCyclesLeft left).refusals = s.refusals := rfl

/-! ### `setTapePos` writes the payload cursor -/

@[simp] theorem State.setTapePos_tapeData (pos : Pos) : (s.setTapePos pos).tapeData = s.tapeData := rfl
@[simp] theorem State.setTapePos_tapeLength (pos : Pos) : (s.setTapePos pos).tapeLength = s.tapeLength := rfl
@[simp] theorem State.setTapePos_tapeFilled (pos : Pos) : (s.setTapePos pos).tapeFilled = s.tapeFilled := rfl
@[simp] theorem State.setTapePos_tapVersion (pos : Pos) : (s.setTapePos pos).tapVersion = s.tapVersion := rfl
@[simp] theorem State.setTapePos_tapePos (pos : Pos) : (s.setTapePos pos).tapePos = pos := rfl
@[simp] theorem State.setTapePos_cyclesLeft (pos : Pos) : (s.setTapePos pos).cyclesLeft = s.cyclesLeft := rfl
@[simp] theorem State.setTapePos_halfwayCycles (pos : Pos) : (s.setTapePos pos).halfwayCycles = s.halfwayCycles := rfl
@[simp] theorem State.setTapePos_mode (pos : Pos) : (s.setTapePos pos).mode = s.mode := rfl
@[simp] theorem State.setTapePos_sigOut (pos : Pos) : (s.setTapePos pos).sigOut = s.sigOut := rfl
@[simp] theorem State.setTapePos_sigIn (pos : Pos) : (s.setTapePos pos).sigIn = s.sigIn := rfl
@[simp] theorem State.setTapePos_cfg (pos : Pos) : (s.setTapePos pos).cfg = s.cfg := rfl
@[simp] theorem State.setTapePos_pending (pos : Pos) : (s.setTapePos pos).pending = s.pending := rfl
@[simp] theorem State.setTapePos_src (pos : Pos) : (s.setTapePos pos).src = s.src := rfl
@[simp] theorem State.setTapePos_result (pos : Pos) : (s.setTapePos pos).result = s.result := rfl
@[simp] theorem State.setTapePos_draws (pos : Pos) : (s.setTapePos pos).draws = s.draws := rfl
@[simp] theorem State.setTapePos_refusals (pos : Pos) : (s.setTapePos pos).refusals = s.refusals := rfl

/-! ### `setMode` writes the mode -/

@[simp] theorem State.setMode_tapeData (m : Mode) : (s.setMode m).tapeData = s.tapeData := rfl
@[simp] theorem State.setMode_tapeLength (m : Mode) : (s.setMode m).tapeLength = s.tapeLength := rfl
@[simp] theorem State.setMode_tapeFilled (m : Mode) : (s.setMode m).tapeFilled = s.tapeFilled := rfl
@[simp] theorem State.setMode_tapVersion (m : Mode) : (s.setMode m).tapVersion = s.tapVersion := rfl
@[simp] theorem State.setMode_tapePos (m : Mode) : (s.setMode m).tapePos = s.tapePos := rfl
@[simp] theorem State.setMode_cyclesLeft (m : Mode) : (s.setMode m).cyclesLeft = s.cyclesLeft := rfl
@[simp] theorem State.setMode_halfwayCycles (m : Mode) : (s.setMode m).halfwayCycles = s.halfwayCycles := rfl
@[simp] theorem State.setMode_mode (m : Mode) : (s.setMode m).mode = m := rfl
@[simp] theorem State.setMode_sigOut (m : Mode) : (s.setMode m).sigOut = s.sigOut := rfl
@[simp] theorem State.setMode_sigIn (m : Mode) : (s.setMode m).sigIn = s.sigIn := rfl
@[simp] theorem State.setMode_cfg (m : Mode) : (s.setMode m).cfg = s.cfg := rfl
@[simp] theorem State.setMode_pending (m : Mode) : (s.setMode m).pending = s.pending := rfl
@[simp] theorem State.setMode_src (m : Mode) : (s.setMode m).src = s.src := rfl
@[simp] theorem State.setMode_result (m : Mode) : (s.setMode m).result = s.result := rfl
@[simp] theorem State.setMode_draws (m : Mode) : (s.setMode m).draws = s.draws := rfl
@[simp] theorem State.setMode_refusals (m : Mode) : (s.setMode m).refusals = s.refusals := rfl

/-! ### `setSigOut` writes the device's signals -/

@[simp] theorem State.setSigOut_tapeData (g : Sig) : (s.setSigOut g).tapeData = s.tapeData := rfl
@[simp] theorem State.setSigOut_tapeLength (g : Sig) : (s.setSigOut g).tapeLength = s.tapeLength := rfl
@[simp] theorem State.setSigOut_tapeFilled (g : Sig) : (s.setSigOut g).tapeFilled = s.tapeFilled := rfl
@[simp] theorem State.setSigOut_tapVersion (g : Sig) : (s.setSigOut g).tapVersion = s.tapVersion := rfl
@[simp] theorem State.setSigOut_tapePos (g : Sig) : (s.setSigOut g).tapePos = s.tapePos := rfl
@[simp] theorem State.setSigOut_cyclesLeft (g : Sig) : (s.setSigOut g).cyclesLeft = s.cyclesLeft := rfl
@[simp] theorem State.setSigOut_halfwayCycles (g : Sig) : (s.setSigOut g).halfwayCycles = s.halfwayCycles := rfl
@[simp] theorem State.setSigOut_mode (g : Sig) : (s.setSigOut g).mode = s.mode := rfl
@[simp] theorem State.setSigOut_sigOut (g : Sig) : (s.setSigOut g).sigOut = g := rfl
@[simp] theorem State.setSigOut_sigIn (g : Sig) : (s.setSigOut g).sigIn = s.sigIn := rfl
@[simp] theorem State.setSigOut_cfg (g : Sig) : (s.setSigOut g).cfg = s.cfg := rfl
@[simp] theorem State.setSigOut_pending (g : Sig) : (s.setSigOut g).pending = s.pending := rfl
@[simp] theorem State.setSigOut_src (g : Sig) : (s.setSigOut g).src = s.src := rfl
@[simp] theorem State.setSigOut_result (g : Sig) : (s.setSigOut g).result = s.result := rfl
@[simp] theorem State.setSigOut_draws (g : Sig) : (s.setSigOut g).draws = s.draws := rfl
@[simp] theorem State.setSigOut_refusals (g : Sig) : (s.setSigOut g).refusals = s.refusals := rfl

/-! ### `setSigIn` writes the host's signals -/

@[simp] theorem State.setSigIn_tapeData (g : Sig) : (s.setSigIn g).tapeData = s.tapeData := rfl
@[simp] theorem State.setSigIn_tapeLength (g : Sig) : (s.setSigIn g).tapeLength = s.tapeLength := rfl
@[simp] theorem State.setSigIn_tapeFilled (g : Sig) : (s.setSigIn g).tapeFilled = s.tapeFilled := rfl
@[simp] theorem State.setSigIn_tapVersion (g : Sig) : (s.setSigIn g).tapVersion = s.tapVersion := rfl
@[simp] theorem State.setSigIn_tapePos (g : Sig) : (s.setSigIn g).tapePos = s.tapePos := rfl
@[simp] theorem State.setSigIn_cyclesLeft (g : Sig) : (s.setSigIn g).cyclesLeft = s.cyclesLeft := rfl
@[simp] theorem State.setSigIn_halfwayCycles (g : Sig) : (s.setSigIn g).halfwayCycles = s.halfwayCycles := rfl
@[simp] theorem State.setSigIn_mode (g : Sig) : (s.setSigIn g).mode = s.mode := rfl
@[simp] theorem State.setSigIn_sigOut (g : Sig) : (s.setSigIn g).sigOut = s.sigOut := rfl
@[simp] theorem State.setSigIn_sigIn (g : Sig) : (s.setSigIn g).sigIn = g := rfl
@[simp] theorem State.setSigIn_cfg (g : Sig) : (s.setSigIn g).cfg = s.cfg := rfl
@[simp] theorem State.setSigIn_pending (g : Sig) : (s.setSigIn g).pending = s.pending := rfl
@[simp] theorem State.setSigIn_src (g : Sig) : (s.setSigIn g).src = s.src := rfl
@[simp] theorem State.setSigIn_result (g : Sig) : (s.setSigIn g).result = s.result := rfl
@[simp] theorem State.setSigIn_draws (g : Sig) : (s.setSigIn g).draws = s.draws := rfl
@[simp] theorem State.setSigIn_refusals (g : Sig) : (s.setSigIn g).refusals = s.refusals := rfl

/-! ### `setSense` writes `Sense` alone -/

@[simp] theorem State.setSense_tapeData (b : Bool) : (s.setSense b).tapeData = s.tapeData := rfl
@[simp] theorem State.setSense_tapeLength (b : Bool) : (s.setSense b).tapeLength = s.tapeLength := rfl
@[simp] theorem State.setSense_tapeFilled (b : Bool) : (s.setSense b).tapeFilled = s.tapeFilled := rfl
@[simp] theorem State.setSense_tapVersion (b : Bool) : (s.setSense b).tapVersion = s.tapVersion := rfl
@[simp] theorem State.setSense_tapePos (b : Bool) : (s.setSense b).tapePos = s.tapePos := rfl
@[simp] theorem State.setSense_cyclesLeft (b : Bool) : (s.setSense b).cyclesLeft = s.cyclesLeft := rfl
@[simp] theorem State.setSense_halfwayCycles (b : Bool) : (s.setSense b).halfwayCycles = s.halfwayCycles := rfl
@[simp] theorem State.setSense_mode (b : Bool) : (s.setSense b).mode = s.mode := rfl
@[simp] theorem State.setSense_sigOut (b : Bool) : (s.setSense b).sigOut = withSense b s.sigOut := rfl
@[simp] theorem State.setSense_sigIn (b : Bool) : (s.setSense b).sigIn = s.sigIn := rfl
@[simp] theorem State.setSense_cfg (b : Bool) : (s.setSense b).cfg = s.cfg := rfl
@[simp] theorem State.setSense_pending (b : Bool) : (s.setSense b).pending = s.pending := rfl
@[simp] theorem State.setSense_src (b : Bool) : (s.setSense b).src = s.src := rfl
@[simp] theorem State.setSense_result (b : Bool) : (s.setSense b).result = s.result := rfl
@[simp] theorem State.setSense_draws (b : Bool) : (s.setSense b).draws = s.draws := rfl
@[simp] theorem State.setSense_refusals (b : Bool) : (s.setSense b).refusals = s.refusals := rfl

/-! ### `setRead` writes `Read` alone -/

@[simp] theorem State.setRead_tapeData (b : Bool) : (s.setRead b).tapeData = s.tapeData := rfl
@[simp] theorem State.setRead_tapeLength (b : Bool) : (s.setRead b).tapeLength = s.tapeLength := rfl
@[simp] theorem State.setRead_tapeFilled (b : Bool) : (s.setRead b).tapeFilled = s.tapeFilled := rfl
@[simp] theorem State.setRead_tapVersion (b : Bool) : (s.setRead b).tapVersion = s.tapVersion := rfl
@[simp] theorem State.setRead_tapePos (b : Bool) : (s.setRead b).tapePos = s.tapePos := rfl
@[simp] theorem State.setRead_cyclesLeft (b : Bool) : (s.setRead b).cyclesLeft = s.cyclesLeft := rfl
@[simp] theorem State.setRead_halfwayCycles (b : Bool) : (s.setRead b).halfwayCycles = s.halfwayCycles := rfl
@[simp] theorem State.setRead_mode (b : Bool) : (s.setRead b).mode = s.mode := rfl
@[simp] theorem State.setRead_sigOut (b : Bool) : (s.setRead b).sigOut = withRead b s.sigOut := rfl
@[simp] theorem State.setRead_sigIn (b : Bool) : (s.setRead b).sigIn = s.sigIn := rfl
@[simp] theorem State.setRead_cfg (b : Bool) : (s.setRead b).cfg = s.cfg := rfl
@[simp] theorem State.setRead_pending (b : Bool) : (s.setRead b).pending = s.pending := rfl
@[simp] theorem State.setRead_src (b : Bool) : (s.setRead b).src = s.src := rfl
@[simp] theorem State.setRead_result (b : Bool) : (s.setRead b).result = s.result := rfl
@[simp] theorem State.setRead_draws (b : Bool) : (s.setRead b).draws = s.draws := rfl
@[simp] theorem State.setRead_refusals (b : Bool) : (s.setRead b).refusals = s.refusals := rfl

/-! ### `deliver` writes the result outputs -/

@[simp] theorem State.deliver_tapeData (r : Result) : (s.deliver r).tapeData = s.tapeData := rfl
@[simp] theorem State.deliver_tapeLength (r : Result) : (s.deliver r).tapeLength = s.tapeLength := rfl
@[simp] theorem State.deliver_tapeFilled (r : Result) : (s.deliver r).tapeFilled = s.tapeFilled := rfl
@[simp] theorem State.deliver_tapVersion (r : Result) : (s.deliver r).tapVersion = s.tapVersion := rfl
@[simp] theorem State.deliver_tapePos (r : Result) : (s.deliver r).tapePos = s.tapePos := rfl
@[simp] theorem State.deliver_cyclesLeft (r : Result) : (s.deliver r).cyclesLeft = s.cyclesLeft := rfl
@[simp] theorem State.deliver_halfwayCycles (r : Result) : (s.deliver r).halfwayCycles = s.halfwayCycles := rfl
@[simp] theorem State.deliver_mode (r : Result) : (s.deliver r).mode = s.mode := rfl
@[simp] theorem State.deliver_sigOut (r : Result) : (s.deliver r).sigOut = s.sigOut := rfl
@[simp] theorem State.deliver_sigIn (r : Result) : (s.deliver r).sigIn = s.sigIn := rfl
@[simp] theorem State.deliver_cfg (r : Result) : (s.deliver r).cfg = s.cfg := rfl
@[simp] theorem State.deliver_pending (r : Result) : (s.deliver r).pending = s.pending := rfl
@[simp] theorem State.deliver_src (r : Result) : (s.deliver r).src = s.src := rfl
@[simp] theorem State.deliver_result (r : Result) : (s.deliver r).result = r := rfl
@[simp] theorem State.deliver_draws (r : Result) : (s.deliver r).draws = s.draws := rfl
@[simp] theorem State.deliver_refusals (r : Result) : (s.deliver r).refusals = s.refusals := rfl

/-! ### `deliverUpdate` writes UPDATE's result -/

@[simp] theorem State.deliverUpdate_tapeData (h : HandlerStatus) : (s.deliverUpdate h).tapeData = s.tapeData := rfl
@[simp] theorem State.deliverUpdate_tapeLength (h : HandlerStatus) : (s.deliverUpdate h).tapeLength = s.tapeLength := rfl
@[simp] theorem State.deliverUpdate_tapeFilled (h : HandlerStatus) : (s.deliverUpdate h).tapeFilled = s.tapeFilled := rfl
@[simp] theorem State.deliverUpdate_tapVersion (h : HandlerStatus) : (s.deliverUpdate h).tapVersion = s.tapVersion := rfl
@[simp] theorem State.deliverUpdate_tapePos (h : HandlerStatus) : (s.deliverUpdate h).tapePos = s.tapePos := rfl
@[simp] theorem State.deliverUpdate_cyclesLeft (h : HandlerStatus) : (s.deliverUpdate h).cyclesLeft = s.cyclesLeft := rfl
@[simp] theorem State.deliverUpdate_halfwayCycles (h : HandlerStatus) : (s.deliverUpdate h).halfwayCycles = s.halfwayCycles := rfl
@[simp] theorem State.deliverUpdate_mode (h : HandlerStatus) : (s.deliverUpdate h).mode = s.mode := rfl
@[simp] theorem State.deliverUpdate_sigOut (h : HandlerStatus) : (s.deliverUpdate h).sigOut = s.sigOut := rfl
@[simp] theorem State.deliverUpdate_sigIn (h : HandlerStatus) : (s.deliverUpdate h).sigIn = s.sigIn := rfl
@[simp] theorem State.deliverUpdate_cfg (h : HandlerStatus) : (s.deliverUpdate h).cfg = s.cfg := rfl
@[simp] theorem State.deliverUpdate_pending (h : HandlerStatus) : (s.deliverUpdate h).pending = s.pending := rfl
@[simp] theorem State.deliverUpdate_src (h : HandlerStatus) : (s.deliverUpdate h).src = s.src := rfl
@[simp] theorem State.deliverUpdate_result (h : HandlerStatus) : (s.deliverUpdate h).result = .update s.updatePos h := rfl
@[simp] theorem State.deliverUpdate_draws (h : HandlerStatus) : (s.deliverUpdate h).draws = s.draws := rfl
@[simp] theorem State.deliverUpdate_refusals (h : HandlerStatus) : (s.deliverUpdate h).refusals = s.refusals := rfl

/-! ### `loadPulse` writes the cursor -/

@[simp] theorem State.loadPulse_tapeData (l : Cnt) (n : Pos) : (s.loadPulse l n).tapeData = s.tapeData := rfl
@[simp] theorem State.loadPulse_tapeLength (l : Cnt) (n : Pos) : (s.loadPulse l n).tapeLength = s.tapeLength := rfl
@[simp] theorem State.loadPulse_tapeFilled (l : Cnt) (n : Pos) : (s.loadPulse l n).tapeFilled = s.tapeFilled := rfl
@[simp] theorem State.loadPulse_tapVersion (l : Cnt) (n : Pos) : (s.loadPulse l n).tapVersion = s.tapVersion := rfl
@[simp] theorem State.loadPulse_tapePos (l : Cnt) (n : Pos) : (s.loadPulse l n).tapePos = s.tapePos + n := rfl
@[simp] theorem State.loadPulse_cyclesLeft (l : Cnt) (n : Pos) : (s.loadPulse l n).cyclesLeft = l := rfl
@[simp] theorem State.loadPulse_halfwayCycles (l : Cnt) (n : Pos) : (s.loadPulse l n).halfwayCycles = l / 2 := rfl
@[simp] theorem State.loadPulse_mode (l : Cnt) (n : Pos) : (s.loadPulse l n).mode = s.mode := rfl
@[simp] theorem State.loadPulse_sigOut (l : Cnt) (n : Pos) : (s.loadPulse l n).sigOut = s.sigOut := rfl
@[simp] theorem State.loadPulse_sigIn (l : Cnt) (n : Pos) : (s.loadPulse l n).sigIn = s.sigIn := rfl
@[simp] theorem State.loadPulse_cfg (l : Cnt) (n : Pos) : (s.loadPulse l n).cfg = s.cfg := rfl
@[simp] theorem State.loadPulse_pending (l : Cnt) (n : Pos) : (s.loadPulse l n).pending = s.pending := rfl
@[simp] theorem State.loadPulse_src (l : Cnt) (n : Pos) : (s.loadPulse l n).src = s.src := rfl
@[simp] theorem State.loadPulse_result (l : Cnt) (n : Pos) : (s.loadPulse l n).result = s.result := rfl
@[simp] theorem State.loadPulse_draws (l : Cnt) (n : Pos) : (s.loadPulse l n).draws = s.draws := rfl
@[simp] theorem State.loadPulse_refusals (l : Cnt) (n : Pos) : (s.loadPulse l n).refusals = s.refusals := rfl

/-! ### `accept` takes one operation from the host -/

@[simp] theorem State.accept_tapeData (r : Request) (rest : List Request) : (s.accept r rest).tapeData = s.tapeData := rfl
@[simp] theorem State.accept_tapeLength (r : Request) (rest : List Request) : (s.accept r rest).tapeLength = s.tapeLength := rfl
@[simp] theorem State.accept_tapeFilled (r : Request) (rest : List Request) : (s.accept r rest).tapeFilled = s.tapeFilled := rfl
@[simp] theorem State.accept_tapVersion (r : Request) (rest : List Request) : (s.accept r rest).tapVersion = s.tapVersion := rfl
@[simp] theorem State.accept_tapePos (r : Request) (rest : List Request) : (s.accept r rest).tapePos = s.tapePos := rfl
@[simp] theorem State.accept_cyclesLeft (r : Request) (rest : List Request) : (s.accept r rest).cyclesLeft = s.cyclesLeft := rfl
@[simp] theorem State.accept_halfwayCycles (r : Request) (rest : List Request) : (s.accept r rest).halfwayCycles = s.halfwayCycles := rfl
@[simp] theorem State.accept_mode (r : Request) (rest : List Request) : (s.accept r rest).mode = s.mode := rfl
@[simp] theorem State.accept_sigOut (r : Request) (rest : List Request) : (s.accept r rest).sigOut = s.sigOut := rfl
@[simp] theorem State.accept_sigIn (r : Request) (rest : List Request) : (s.accept r rest).sigIn = s.sigIn := rfl
@[simp] theorem State.accept_cfg (r : Request) (rest : List Request) : (s.accept r rest).cfg = s.cfg := rfl
@[simp] theorem State.accept_pending (r : Request) (rest : List Request) : (s.accept r rest).pending = rest := rfl
@[simp] theorem State.accept_src (r : Request) (rest : List Request) : (s.accept r rest).src = r.src := rfl
@[simp] theorem State.accept_result (r : Request) (rest : List Request) : (s.accept r rest).result = s.result := rfl
@[simp] theorem State.accept_draws (r : Request) (rest : List Request) : (s.accept r rest).draws = s.draws := rfl
@[simp] theorem State.accept_refusals (r : Request) (rest : List Request) : (s.accept r rest).refusals = s.refusals := rfl

/-! ### `issueFirst` adds one operation of the host -/

@[simp] theorem State.issueFirst_tapeData (cmd : Byte) : (s.issueFirst cmd).tapeData = s.tapeData := rfl
@[simp] theorem State.issueFirst_tapeLength (cmd : Byte) : (s.issueFirst cmd).tapeLength = s.tapeLength := rfl
@[simp] theorem State.issueFirst_tapeFilled (cmd : Byte) : (s.issueFirst cmd).tapeFilled = s.tapeFilled := rfl
@[simp] theorem State.issueFirst_tapVersion (cmd : Byte) : (s.issueFirst cmd).tapVersion = s.tapVersion := rfl
@[simp] theorem State.issueFirst_tapePos (cmd : Byte) : (s.issueFirst cmd).tapePos = s.tapePos := rfl
@[simp] theorem State.issueFirst_cyclesLeft (cmd : Byte) : (s.issueFirst cmd).cyclesLeft = s.cyclesLeft := rfl
@[simp] theorem State.issueFirst_halfwayCycles (cmd : Byte) : (s.issueFirst cmd).halfwayCycles = s.halfwayCycles := rfl
@[simp] theorem State.issueFirst_mode (cmd : Byte) : (s.issueFirst cmd).mode = s.mode := rfl
@[simp] theorem State.issueFirst_sigOut (cmd : Byte) : (s.issueFirst cmd).sigOut = s.sigOut := rfl
@[simp] theorem State.issueFirst_sigIn (cmd : Byte) : (s.issueFirst cmd).sigIn = s.sigIn := rfl
@[simp] theorem State.issueFirst_cfg (cmd : Byte) : (s.issueFirst cmd).cfg = s.cfg := rfl
@[simp] theorem State.issueFirst_pending (cmd : Byte) : (s.issueFirst cmd).pending = ⟨cmd, s.src⟩ :: s.pending := rfl
@[simp] theorem State.issueFirst_src (cmd : Byte) : (s.issueFirst cmd).src = s.src := rfl
@[simp] theorem State.issueFirst_result (cmd : Byte) : (s.issueFirst cmd).result = s.result := rfl
@[simp] theorem State.issueFirst_draws (cmd : Byte) : (s.issueFirst cmd).draws = s.draws := rfl
@[simp] theorem State.issueFirst_refusals (cmd : Byte) : (s.issueFirst cmd).refusals = s.refusals := rfl

/-! ### `draw` advances the draw counter -/

@[simp] theorem State.draw_byte : s.draw.1 = Config.drawByte s.draws := rfl
@[simp] theorem State.draw_tapeData : s.draw.2.tapeData = s.tapeData := rfl
@[simp] theorem State.draw_tapeLength : s.draw.2.tapeLength = s.tapeLength := rfl
@[simp] theorem State.draw_tapeFilled : s.draw.2.tapeFilled = s.tapeFilled := rfl
@[simp] theorem State.draw_tapVersion : s.draw.2.tapVersion = s.tapVersion := rfl
@[simp] theorem State.draw_tapePos : s.draw.2.tapePos = s.tapePos := rfl
@[simp] theorem State.draw_cyclesLeft : s.draw.2.cyclesLeft = s.cyclesLeft := rfl
@[simp] theorem State.draw_halfwayCycles : s.draw.2.halfwayCycles = s.halfwayCycles := rfl
@[simp] theorem State.draw_mode : s.draw.2.mode = s.mode := rfl
@[simp] theorem State.draw_sigOut : s.draw.2.sigOut = s.sigOut := rfl
@[simp] theorem State.draw_sigIn : s.draw.2.sigIn = s.sigIn := rfl
@[simp] theorem State.draw_cfg : s.draw.2.cfg = s.cfg := rfl
@[simp] theorem State.draw_pending : s.draw.2.pending = s.pending := rfl
@[simp] theorem State.draw_src : s.draw.2.src = s.src := rfl
@[simp] theorem State.draw_result : s.draw.2.result = s.result := rfl
@[simp] theorem State.draw_draws : s.draw.2.draws = s.draws + 1 := rfl
@[simp] theorem State.draw_refusals : s.draw.2.refusals = s.refusals := rfl

/-! ### `refuse` takes one command word off the queue and marks the run -/

@[simp] theorem State.refuse_tapeData (r : Request) (rest : List Request) (e : CommandError) : (s.refuse r rest e).tapeData = s.tapeData := rfl
@[simp] theorem State.refuse_tapeLength (r : Request) (rest : List Request) (e : CommandError) : (s.refuse r rest e).tapeLength = s.tapeLength := rfl
@[simp] theorem State.refuse_tapeFilled (r : Request) (rest : List Request) (e : CommandError) : (s.refuse r rest e).tapeFilled = s.tapeFilled := rfl
@[simp] theorem State.refuse_tapVersion (r : Request) (rest : List Request) (e : CommandError) : (s.refuse r rest e).tapVersion = s.tapVersion := rfl
@[simp] theorem State.refuse_tapePos (r : Request) (rest : List Request) (e : CommandError) : (s.refuse r rest e).tapePos = s.tapePos := rfl
@[simp] theorem State.refuse_cyclesLeft (r : Request) (rest : List Request) (e : CommandError) : (s.refuse r rest e).cyclesLeft = s.cyclesLeft := rfl
@[simp] theorem State.refuse_halfwayCycles (r : Request) (rest : List Request) (e : CommandError) : (s.refuse r rest e).halfwayCycles = s.halfwayCycles := rfl
@[simp] theorem State.refuse_mode (r : Request) (rest : List Request) (e : CommandError) : (s.refuse r rest e).mode = s.mode := rfl
@[simp] theorem State.refuse_sigOut (r : Request) (rest : List Request) (e : CommandError) : (s.refuse r rest e).sigOut = s.sigOut := rfl
@[simp] theorem State.refuse_sigIn (r : Request) (rest : List Request) (e : CommandError) : (s.refuse r rest e).sigIn = s.sigIn := rfl
@[simp] theorem State.refuse_cfg (r : Request) (rest : List Request) (e : CommandError) : (s.refuse r rest e).cfg = s.cfg := rfl
@[simp] theorem State.refuse_src (r : Request) (rest : List Request) (e : CommandError) : (s.refuse r rest e).src = s.src := rfl
@[simp] theorem State.refuse_result (r : Request) (rest : List Request) (e : CommandError) : (s.refuse r rest e).result = s.result := rfl
@[simp] theorem State.refuse_draws (r : Request) (rest : List Request) (e : CommandError) : (s.refuse r rest e).draws = s.draws := rfl
@[simp] theorem State.refuse_pending (r : Request) (rest : List Request) (e : CommandError) : (s.refuse r rest e).pending = rest := rfl
@[simp] theorem State.refuse_refusals (r : Request) (rest : List Request) (e : CommandError) :
    (s.refuse r rest e).refusals = s.refusals ++ [⟨r.cmd, e⟩] := rfl

end Sys2Proof.Machine
end

