-- ==== Sys2Proof/Laws/Memory.lean ====
section
/-!
SUPPORT. The payload buffer: the one write keeps the canonical form, and the payload read answers one of three
things.
-/

namespace Sys2Proof.Machine

/-! ## The buffer -/

@[simp] theorem Memory.read_nil (i : Nat) : Memory.read [] i = none := rfl

theorem Memory.read_ofBytesFrom (bytes : List Byte) (base i : Nat) :
    Memory.read (Memory.ofBytesFrom base bytes) (base + i) = bytes[i]? := by
  induction bytes generalizing base i with
  | nil => rfl
  | cons b bs ih =>
    cases i with
    | zero => simp [Memory.ofBytesFrom, Memory.read]
    | succ k =>
      have : Memory.read (Memory.ofBytesFrom (base + 1) bs) (base + (k + 1)) = bs[k]? := by
        rw [show base + (k + 1) = base + 1 + k by omega]; exact ih (base + 1) k
      simp [Memory.ofBytesFrom, Memory.read, this]

/-- The buffer of a byte sequence reads as the sequence (20_memory.md R36, R39). -/
@[simp] theorem Memory.read_ofBytes (bytes : List Byte) (i : Nat) :
    Memory.read (Memory.ofBytes bytes) i = bytes[i]? := by
  simpa [Memory.ofBytes] using Memory.read_ofBytesFrom bytes 0 i

theorem Memory.keys_ofBytesFrom (bytes : List Byte) (base : Nat) :
    (Memory.ofBytesFrom base bytes).map Prod.fst = List.range' base bytes.length := by
  induction bytes generalizing base with
  | nil => rfl
  | cons b bs ih => simp [Memory.ofBytesFrom, ih, List.range'_succ]

/-- The buffer of a byte sequence lists the indices below its length. -/
@[simp] theorem Memory.keys_ofBytes (bytes : List Byte) :
    (Memory.ofBytes bytes).map Prod.fst = List.range bytes.length := by
  simp [Memory.ofBytes, Memory.keys_ofBytesFrom, List.range_eq_range']

theorem Memory.wf_ofBytesFrom (bytes : List Byte) (base : Nat) :
    Memory.wf (Memory.ofBytesFrom base bytes) = true := by
  induction bytes generalizing base with
  | nil => rfl
  | cons b bs ih =>
    have hlt : ∀ c ∈ Memory.ofBytesFrom (base + 1) bs, base < c.1 := by
      intro c hc
      have : c.1 ∈ (Memory.ofBytesFrom (base + 1) bs).map Prod.fst := List.mem_map_of_mem hc
      rw [Memory.keys_ofBytesFrom] at this
      have := (List.mem_range'_1.mp this).1
      omega
    simp only [Memory.ofBytesFrom, Memory.wf, Bool.and_eq_true, List.all_eq_true, decide_eq_true_eq]
    exact ⟨hlt, ih (base + 1)⟩

/-- The one write of the buffer gives the canonical form (20_memory.md R36). -/
@[simp] theorem Memory.wf_ofBytes (bytes : List Byte) : Memory.wf (Memory.ofBytes bytes) = true :=
  Memory.wf_ofBytesFrom bytes 0

/-- A listed index reads as a byte. -/
theorem Memory.read_isSome_of_mem {m : Memory} {i : Nat} (h : i ∈ m.map Prod.fst) :
    ∃ b, Memory.read m i = some b := by
  induction m with
  | nil => simp at h
  | cons c rest ih =>
    obtain ⟨a, b⟩ := c
    by_cases hi : a = i
    · exact ⟨b, by simp [Memory.read, hi]⟩
    · have : i ∈ rest.map Prod.fst := by
        simp only [List.map_cons, List.mem_cons] at h
        rcases h with h | h
        · exact absurd h.symm hi
        · exact h
      obtain ⟨b', hb'⟩ := ih this
      exact ⟨b', by simp [Memory.read, hi, hb']⟩

/-- The power-on buffer has the canonical form. -/
theorem reset_tapeData_wf : Memory.wf State.reset.tapeData = true := rfl

/-! ## The payload read (20_memory.md R39) -/

/-- The read faults exactly past the payload. -/
theorem memRead_past {s : State} {i : Nat} (h : s.tapeLength.toNat ≤ i) :
    memRead i s = .fault .readPastEnd := by
  simp [memRead, h]

/-- A byte that LOAD wrote is read with no side effect. -/
theorem memRead_filled {s : State} {i : Nat} {b : Byte} (hl : i < s.tapeLength.toNat)
    (hf : i < s.tapeFilled.toNat) (hb : s.tapeData.read i = some b) : memRead i s = .next (b, s) := by
  simp [memRead, Nat.not_le.mpr hl, hf, hb]

/-- A byte that LOAD did not write is a draw. -/
theorem memRead_unfilled {s : State} {i : Nat} (hl : i < s.tapeLength.toNat)
    (hf : s.tapeFilled.toNat ≤ i) : memRead i s = .next s.draw := by
  simp [memRead, Nat.not_le.mpr hl, Nat.not_lt.mpr hf]

/-- Inside the payload the read answers a byte, and the state it leaves differs at most in the draw counter. -/
theorem memRead_next {s : State} {i : Nat} (hl : i < s.tapeLength.toNat) :
    ∃ b n, memRead i s = .next (b, { s with draws := n }) := by
  rw [memRead, if_neg (Nat.not_le.mpr hl)]
  split
  · split
    · exact ⟨_, s.draws, rfl⟩
    · exact ⟨_, _, rfl⟩
  · exact ⟨_, _, rfl⟩

/-- Reads inside the payload, in a row, answer as many bytes; only the draw counter moves. -/
theorem memReadRun_next {n : Nat} : ∀ {s : State} {i : Nat}, i + n ≤ s.tapeLength.toNat →
    ∃ bs k, memReadRun i n s = .next (bs, { s with draws := k }) ∧ bs.length = n := by
  induction n with
  | zero => intro s i _; exact ⟨[], s.draws, rfl, rfl⟩
  | succ n ih =>
    intro s i h
    obtain ⟨b, k, hb⟩ := memRead_next (s := s) (i := i) (by omega)
    obtain ⟨bs, k', hbs, hlen⟩ := ih (s := { s with draws := k }) (i := i + 1) (by simp; omega)
    exact ⟨b :: bs, k', by simp [memReadRun, hb, andThen, hbs], by simp [hlen]⟩

/-- Reads of bytes that LOAD wrote, in a row, answer those bytes and leave the state as it is. -/
theorem memReadRun_filled {bytes : List Byte} : ∀ {s : State} {i : Nat},
    i + bytes.length ≤ s.tapeLength.toNat → i + bytes.length ≤ s.tapeFilled.toNat →
    (∀ k b, bytes[k]? = some b → s.tapeData.read (i + k) = some b) →
    memReadRun i bytes.length s = .next (bytes, s) := by
  induction bytes with
  | nil => intro s i _ _ _; rfl
  | cons b bs ih =>
    intro s i hl hf hr
    simp only [List.length_cons] at hl hf
    have h0 : memRead i s = .next (b, s) :=
      memRead_filled (by omega) (by omega) (by simpa using hr 0 b rfl)
    have h1 : memReadRun (i + 1) bs.length s = .next (bs, s) :=
      ih (by omega) (by omega) fun k c hk => by
        have := hr (k + 1) c (by simpa using hk)
        rwa [show i + (k + 1) = i + 1 + k by omega] at this
    simp [memReadRun, h0, andThen, h1]

end Sys2Proof.Machine
end

