-- ==== Sys2Proof/Laws/Container.lean ====
section
/-!
SUPPORT. What LOAD can do, said once: it answers with a code and its release, having written nothing, the version
alone, or the version and the tape.
-/

namespace Sys2Proof.Machine

/-! ## Little-endian values -/

/-- `n` bytes assemble to a value below `256 ^ n` (20_memory.md R40, R41). -/
theorem littleEndian_lt (bytes : List Byte) : littleEndian bytes < 256 ^ bytes.length := by
  induction bytes with
  | nil => simp [littleEndian]
  | cons b bs ih =>
    have := b.isLt
    simp only [littleEndian, List.length_cons, Nat.pow_succ]
    omega

/-! ## The stream (20_memory.md R38) -/

@[simp] theorem streamRead_short (n : Nat) (stream : List Byte) :
    (streamRead n stream).short = decide (stream.length < n) := by rw [streamRead]

@[simp] theorem streamRead_bytes (n : Nat) (stream : List Byte) :
    (streamRead n stream).bytes = stream.take n := rfl

@[simp] theorem streamRead_rest (n : Nat) (stream : List Byte) :
    (streamRead n stream).rest = stream.drop n := rfl

/-- A read of exactly the first part of a stream leaves the rest. -/
theorem streamRead_append (a b : List Byte) :
    streamRead a.length (a ++ b) = { bytes := a, rest := b, short := false } := by
  simp [streamRead]

/-! ## The steps of LOAD -/

/-- A payload that is all there replaces the tape (40_container_parser.md R84). -/
theorem loadPayload_whole {len : Pos} {stream : List Byte} (s : State) (h : len.toNat ≤ stream.length) :
    loadPayload len stream s = loadDone .none (s.setTape (stream.take len.toNat) len len) := by
  simp [loadPayload, Nat.not_lt.mpr h]

/-- A payload that ends early leaves what the policy says (40_container_parser.md R85, R86). -/
theorem loadPayload_truncated {len : Pos} {stream : List Byte} (s : State) (h : stream.length < len.toNat) :
    loadPayload len stream s = loadDone .tapTooShort (truncatedTape stream len s) := by
  simp [loadPayload, h, List.take_of_length_le (Nat.le_of_lt h)]

/-- What the payload step writes (40_container_parser.md R84 to R86): as many bytes as it says are filled, no
more than the declared length, and exactly that many under REJECT. -/
theorem loadPayload_cases (len : Pos) (stream : List Byte) (s : State) :
    ∃ (e : ErrorState) (bytes : List Byte) (l f : Pos),
      loadPayload len stream s = loadDone e (s.setTape bytes l f) ∧ bytes.length = f.toNat ∧ f ≤ l ∧
        (s.cfg.truncPolicy = .reject → f = l) ∧ e ≠ .fileNotFound := by
  by_cases h : stream.length < len.toNat
  · have hlt := len.isLt
    cases hp : s.cfg.truncPolicy with
    | reject =>
      exact ⟨.tapTooShort, [], 0, 0, by simp [loadPayload, h, truncatedTape, hp], rfl, by simp, by simp,
        by simp⟩
    | legacy =>
      have ht : (stream.take len.toNat).length = stream.length := by simp; omega
      have hn : (BitVec.ofNat 32 (stream.take len.toNat).length).toNat = stream.length := by
        rw [ht, BitVec.toNat_ofNat, Nat.mod_eq_of_lt (by omega)]
      exact ⟨.tapTooShort, stream.take len.toNat, len, BitVec.ofNat 32 (stream.take len.toNat).length,
        by simp [loadPayload, h, truncatedTape, hp], by rw [hn, ht], by
          rw [BitVec.le_def, hn]; omega, by simp, by simp⟩
  · exact ⟨.none, stream.take len.toNat, len, len, by simp [loadPayload, h], by simp; omega, by simp,
      by simp, by simp⟩

/-- The ways a LOAD that opened its source ends (40_container_parser.md R79 to R87). -/
theorem loadStream_cases (stream : List Byte) (s : State) :
    (∃ e, loadStream stream s = loadDone e s ∧ e ≠ .fileNotFound) ∨
    (∃ v, loadStream stream s = loadDone .error (s.setVersion v)) ∨
    (∃ v e bytes l f, loadStream stream s = loadDone e ((s.setVersion v).setTape bytes l f) ∧
      bytes.length = BitVec.toNat f ∧ f ≤ l ∧ (s.cfg.truncPolicy = .reject → f = l) ∧ e ≠ .fileNotFound) := by
  simp only [loadStream]
  split
  · exact .inl ⟨.error, rfl, by simp⟩
  · split
    · simp only [loadVersion]
      split
      · rename_i v _ _
        simp only [loadReserved]
        split
        · exact .inr (.inl ⟨v, rfl⟩)
        · simp only [loadLength]
          split
          · exact .inr (.inl ⟨v, rfl⟩)
          · split
            · exact .inr (.inl ⟨v, rfl⟩)
            · exact .inr (.inr ⟨v, loadPayload_cases _ _ _⟩)
      · exact .inl ⟨.error, rfl, by simp⟩
    · exact .inl ⟨.fileNotTAP, rfl, by simp⟩

/-- A stream that begins with a whole header reaches the capacity test and the payload step with the header's
version and length (40_container_parser.md R79 to R83). -/
theorem loadStream_header (v r0 r1 r2 l0 l1 l2 l3 : Byte) (payload : List Byte) (s : State) :
    loadStream (magic ++ v :: r0 :: r1 :: r2 :: l0 :: l1 :: l2 :: l3 :: payload) s =
      if s.cfg.tapeCapacity < littleEndian [l0, l1, l2, l3] then loadDone .error (s.setVersion v)
      else loadPayload (BitVec.ofNat 32 (littleEndian [l0, l1, l2, l3])) payload (s.setVersion v) := by
  simp [loadStream, magic, loadVersion, loadReserved, loadLength]
  rw [if_neg (by omega), if_neg (by omega), if_neg (by omega)]

/-- LOAD answers next, and touches only the tape image with its version and the result
(40_container_parser.md R77, R88). -/
theorem execLoad_next (s : State) :
    ∃ (m : Memory) (l f : Pos) (v : Byte) (r : Result), execLoad s =
      .next { s with tapeData := m, tapeLength := l, tapeFilled := f, tapVersion := v, result := r } := by
  unfold execLoad
  split
  · exact ⟨s.tapeData, s.tapeLength, s.tapeFilled, s.tapVersion, _, rfl⟩
  · rename_i bytes _
    rcases loadStream_cases bytes s with ⟨e, h, _⟩ | ⟨v, h⟩ | ⟨v, e, bs, l, f, h, _⟩
    · exact ⟨s.tapeData, s.tapeLength, s.tapeFilled, s.tapVersion, _, by rw [h]; rfl⟩
    · exact ⟨s.tapeData, s.tapeLength, s.tapeFilled, v, _, by rw [h]; rfl⟩
    · exact ⟨Memory.ofBytes bs, l, f, v, _, by rw [h]; rfl⟩

end Sys2Proof.Machine
end

