-- ==== Sys2Proof/Laws/PerInstr.lean ====
section
/-!
SUPPORT. The encoding of every instruction fits its row of spec/opcode_table.json: one lemma per constructor.
-/

namespace Sys2Proof.Laws.TableRow

/-- The bytes an instruction encodes to match its row of the opcode table: its length, and, bit for bit, the
row's `match` under its `mask` on the first byte; for PULSE_SHORT, whose row gives no single match, the first
byte is not `0x00`. -/
def Statement (i : Instr) : Prop :=
  i.wf = true →
    ∃ b rest, encode i = b :: rest ∧
      match i with
      | .load => b &&& 0xFF = 0x10 ∧ rest.length = 0
      | .save => b &&& 0xFF = 0x20 ∧ rest.length = 0
      | .reset => b &&& 0xFF = 0x30 ∧ rest.length = 0
      | .setbtn _ => b &&& 0xF8 = 0x40 ∧ rest.length = 0
      | .update => b &&& 0xFF = 0x50 ∧ rest.length = 0
      | .signals _ _ => b &&& 0xFC = 0x60 ∧ rest.length = 0
      | .pulseShort _ => b ≠ 0x00 ∧ rest.length = 0
      | .escV1 _ _ _ => b &&& 0xFF = 0x00 ∧ rest.length = 3
      | .escFixed => b &&& 0xFF = 0x00 ∧ rest.length = 0

theorem load : Statement .load := fun _ => ⟨_, _, rfl, by decide, rfl⟩

theorem save : Statement .save := fun _ => ⟨_, _, rfl, by decide, rfl⟩

theorem reset : Statement .reset := fun _ => ⟨_, _, rfl, by decide, rfl⟩

theorem setbtn (m : Mode) : Statement (.setbtn m) := fun _ => ⟨_, _, rfl, by cases m <;> decide, rfl⟩

theorem update : Statement .update := fun _ => ⟨_, _, rfl, by decide, rfl⟩

theorem signals (m w : Bool) : Statement (.signals m w) := fun _ =>
  ⟨_, _, rfl, by cases m <;> cases w <;> decide, rfl⟩

theorem pulseShort (b : Byte) : Statement (.pulseShort b) := fun h =>
  ⟨b, [], rfl, by simpa [Instr.wf] using h, rfl⟩

theorem escV1 (b0 b1 b2 : Byte) : Statement (.escV1 b0 b1 b2) := fun _ => ⟨_, _, rfl, by decide, rfl⟩

theorem escFixed : Statement .escFixed := fun _ => ⟨_, _, rfl, by decide, rfl⟩

end Sys2Proof.Laws.TableRow
end

