-- ==== Sys2Proof/Laws/Signals.lean ====
section
/-!
SUPPORT. The signal bits: what packing, writing one bit and reading one bit do to each other.
-/

namespace Sys2Proof.Machine

@[simp] theorem senseBit_packOut (a b : Bool) : senseBit (packOut a b) = a := by
  cases a <;> cases b <;> decide

@[simp] theorem readBit_packOut (a b : Bool) : readBit (packOut a b) = b := by
  cases a <;> cases b <;> decide

@[simp] theorem motorBit_packIn (m w : Bool) : motorBit (packIn m w) = m := by
  cases m <;> cases w <;> decide

@[simp] theorem writeBit_packIn (m w : Bool) : writeBit (packIn m w) = w := by
  cases m <;> cases w <;> decide

@[simp] theorem senseBit_withSense (b : Bool) (g : Sig) : senseBit (withSense b g) = b := by
  simp [withSense]

@[simp] theorem readBit_withSense (b : Bool) (g : Sig) : readBit (withSense b g) = readBit g := by
  simp [withSense]

@[simp] theorem senseBit_withRead (b : Bool) (g : Sig) : senseBit (withRead b g) = senseBit g := by
  simp [withRead]

@[simp] theorem readBit_withRead (b : Bool) (g : Sig) : readBit (withRead b g) = b := by
  simp [withRead]

/-- A signal register is its two bits. -/
theorem sig_eq_packOut (g : Sig) : g = packOut (senseBit g) (readBit g) := by
  revert g; decide

/-- Two device registers with the same bits are equal. -/
theorem sig_ext {g h : Sig} (hs : senseBit g = senseBit h) (hr : readBit g = readBit h) : g = h := by
  rw [sig_eq_packOut g, sig_eq_packOut h, hs, hr]

@[simp] theorem senseBit_zero : senseBit 0 = false := by decide

@[simp] theorem readBit_zero : readBit 0 = false := by decide

/-- The countdown of a counter that has not elapsed (41_pulse_player.md R96). -/
theorem countdown_of_pos {c : Cnt} (h : 0 < c.toNat) : (countdown c).toNat = c.toNat - 1 := by
  have hc : c ≠ 0 := by rintro rfl; simp at h
  have h1 : (1 : Cnt) ≤ c := by simp [BitVec.le_def]; omega
  rw [countdown, if_neg hc, BitVec.toNat_sub_of_le h1]; simp

/-- The countdown reaches zero exactly from 1 and stays at zero (41_pulse_player.md R96). -/
theorem countdown_eq_zero {c : Cnt} : countdown c = 0 ↔ c.toNat ≤ 1 := by
  constructor
  · intro h
    by_contra hc
    have := countdown_of_pos (c := c) (by omega)
    rw [h] at this; simp at this; omega
  · intro h
    by_cases hc : c = 0
    · simp [countdown, hc]
    · have h0 : 0 < c.toNat := by
        rcases Nat.eq_zero_or_pos c.toNat with h0 | h0
        · exact absurd (BitVec.eq_of_toNat_eq (by simpa using h0)) hc
        · exact h0
      apply BitVec.eq_of_toNat_eq
      rw [countdown_of_pos h0]; simp; omega

end Sys2Proof.Machine
end

