-- ==== Sys2Proof/Laws/Player.lean ====
section
/-!
SUPPORT. What the fetch, the play handler and UPDATE can do, said once each.
-/

namespace Sys2Proof.Machine

@[simp] theorem andThen_next {α β : Type} (a : α) (f : α → Host.Outcome β Fault Refusal) :
    andThen (.next a) f = f a := rfl

/-- A chain answers next only where both of its links do. -/
theorem andThen_eq_next {α β : Type} {o : Host.Outcome α Fault Refusal}
    {f : α → Host.Outcome β Fault Refusal} {t : β} :
    andThen o f = .next t ↔ ∃ a, o = .next a ∧ f a = .next t := by
  cases o <;> simp [andThen]

/-! ## Symbols -/

@[simp] theorem symbolLength_pos (ver b : Byte) : 1 ≤ symbolLength ver b := by
  unfold symbolLength; split
  · split <;> omega
  · omega

/-- A non-zero byte is a short pulse in every version (30_encoding.md R71). -/
theorem decodeSymbol_short {ver b : Byte} (rest : List Byte) (hb : b ≠ 0) :
    decodeSymbol ver (b :: rest) = some (.short b, rest) := by
  simp only [decodeSymbol]; rw [if_neg hb]

/-- The escape byte of another version than 1 stands alone (30_encoding.md R73). -/
theorem decodeSymbol_escFixed {ver : Byte} (rest : List Byte) (hv : ver ≠ 1) :
    decodeSymbol ver (0 :: rest) = some (.escFixed, rest) := by
  simp only [decodeSymbol, if_true]; rw [if_neg hv]

/-- The escape byte of version 1 takes three more (30_encoding.md R72). -/
theorem decodeSymbol_escV1 (b0 b1 b2 : Byte) (rest : List Byte) :
    decodeSymbol 1 (0 :: b0 :: b1 :: b2 :: rest) = some (.escV1 b0 b1 b2, rest) := rfl

/-- As many bytes as R74 says decode to a symbol, which encodes back to them. -/
theorem decodeSymbol_of_length {ver b : Byte} {bs : List Byte}
    (h : bs.length = symbolLength ver b - 1) :
    ∃ y, decodeSymbol ver (b :: bs) = some (y, []) ∧ encodeSymbol y = b :: bs ∧
      y.fitsVersion ver = true ∧ y.wf = true := by
  unfold symbolLength at h
  by_cases hb : b = 0
  · subst hb
    by_cases hv : ver = 1
    · subst hv
      simp at h
      match bs, h with
      | [b0, b1, b2], _ => exact ⟨.escV1 b0 b1 b2, rfl, rfl, rfl, rfl⟩
    · rw [if_pos rfl, if_neg hv] at h
      obtain rfl : bs = [] := List.length_eq_zero_iff.mp h
      exact ⟨.escFixed, decodeSymbol_escFixed [] hv, rfl, by
        simpa [Symbol.fitsVersion] using hv, rfl⟩
  · rw [if_neg hb] at h
    obtain rfl : bs = [] := List.length_eq_zero_iff.mp h
    exact ⟨.short b, decodeSymbol_short [] hb, rfl, rfl, by simpa [Symbol.wf] using hb⟩

/-- The pulse length of a symbol (30_encoding.md R71 to R73). -/
theorem runSymbol_next (y : Symbol) (s : State) :
    ∃ l : Cnt, runSymbol y s = .next (s.loadPulse l (BitVec.ofNat 32 (encodeSymbol y).length)) := by
  cases y with
  | short b => exact ⟨_, rfl⟩
  | escV1 b0 b1 b2 => exact ⟨_, rfl⟩
  | escFixed => exact ⟨_, rfl⟩

theorem encodeSymbol_length_pos (y : Symbol) : 1 ≤ (encodeSymbol y).length := by
  cases y <;> simp [encodeSymbol]

theorem encodeSymbol_length_le (y : Symbol) : (encodeSymbol y).length ≤ 4 := by
  cases y <;> simp [encodeSymbol]

/-! ## The fetch -/

/-- Before the end of data the fetch of a symbol answers next: a truncated escape, or a symbol that fits before
the end of the payload (41_pulse_player.md R100, R102). Only the draw counter moves. -/
theorem fetchSymbol_next {s : State} (h : s.tapePos.toNat < s.tapeLength.toNat) :
    ∃ y? k, fetchSymbol s = .next (y?, { s with draws := k }) ∧
      ∀ y, y? = some y → y.fitsVersion s.tapVersion = true ∧ y.wf = true ∧
        s.tapePos.toNat + (encodeSymbol y).length ≤ s.tapeLength.toNat := by
  obtain ⟨b, k, hb⟩ := memRead_next (s := s) h
  have hpos := symbolLength_pos s.tapVersion b
  by_cases hlen : s.tapeLength.toNat < s.tapePos.toNat + symbolLength s.tapVersion b
  · exact ⟨none, k, by simp [fetchSymbol, hb, hlen], by simp⟩
  · obtain ⟨bs, k', hbs, hl⟩ := memReadRun_next (n := symbolLength s.tapVersion b - 1)
      (s := { s with draws := k }) (i := s.tapePos.toNat + 1) (by simp; omega)
    obtain ⟨y, hy, he, hf, hw⟩ := decodeSymbol_of_length hl
    refine ⟨some y, k', by simp [fetchSymbol, hb, hlen, hbs, hy], ?_⟩
    rintro _ ⟨rfl⟩
    refine ⟨hf, hw, ?_⟩
    rw [he]; simp only [List.length_cons]; omega

/-- At the cursor stand the bytes of a symbol, all written by LOAD: the fetch answers that symbol. -/
theorem fetchSymbol_filled {s : State} {y : Symbol} (hw : y.wf = true)
    (hv : y.fitsVersion s.tapVersion = true)
    (hl : s.tapePos.toNat + (encodeSymbol y).length ≤ s.tapeLength.toNat)
    (hf : s.tapePos.toNat + (encodeSymbol y).length ≤ s.tapeFilled.toNat)
    (hr : ∀ k b, (encodeSymbol y)[k]? = some b → s.tapeData.read (s.tapePos.toNat + k) = some b) :
    fetchSymbol s = .next (some y, s) := by
  obtain ⟨b, bs, hbs⟩ : ∃ b bs, encodeSymbol y = b :: bs := by cases y <;> exact ⟨_, _, rfl⟩
  have hlen : symbolLength s.tapVersion b = bs.length + 1 ∧
      decodeSymbol s.tapVersion (b :: bs) = some (y, []) := by
    cases y with
    | short c =>
      simp only [encodeSymbol, List.cons.injEq] at hbs
      obtain ⟨rfl, rfl⟩ := hbs
      have hc : c ≠ 0 := by simpa [Symbol.wf] using hw
      exact ⟨by rw [symbolLength, if_neg hc]; rfl, decodeSymbol_short [] hc⟩
    | escV1 b0 b1 b2 =>
      simp only [encodeSymbol, List.cons.injEq] at hbs
      obtain ⟨rfl, rfl⟩ := hbs
      have hc : s.tapVersion = 1 := by simpa [Symbol.fitsVersion] using hv
      exact ⟨by rw [symbolLength, if_pos rfl, if_pos hc]; rfl, by rw [hc]; rfl⟩
    | escFixed =>
      simp only [encodeSymbol, List.cons.injEq] at hbs
      obtain ⟨rfl, rfl⟩ := hbs
      have hc : s.tapVersion ≠ 1 := by simpa [Symbol.fitsVersion] using hv
      exact ⟨by rw [symbolLength, if_pos rfl, if_neg hc]; rfl, decodeSymbol_escFixed [] hc⟩
  rw [hbs] at hl hf hr
  simp only [List.length_cons] at hl hf
  have h0 : memRead s.tapePos.toNat s = .next (b, s) :=
    memRead_filled (by omega) (by omega) (by simpa using hr 0 b rfl)
  have h1 : memReadRun (s.tapePos.toNat + 1) bs.length s = .next (bs, s) :=
    memReadRun_filled (by omega) (by omega) fun k c hk => by
      have := hr (k + 1) c (by simpa using hk)
      rwa [show s.tapePos.toNat + (k + 1) = s.tapePos.toNat + 1 + k by omega] at this
  have hn : ¬ s.tapeLength.toNat < s.tapePos.toNat + (bs.length + 1) := by omega
  simp [fetchSymbol, h0, hlen.1, hn, h1, hlen.2]

@[simp] theorem endOfData_eq (s : State) : s.endOfData = decide (s.tapeLength.toNat ≤ s.tapePos.toNat) := by
  simp [State.endOfData, BitVec.le_def]

/-- The three things the fetch of a pulse can do (41_pulse_player.md R99 to R102). -/
theorem fetchPulse_cases (s : State) :
    (s.tapeLength.toNat ≤ s.tapePos.toNat ∧ fetchPulse s = .next s) ∨
    (s.tapePos.toNat < s.tapeLength.toNat ∧
      ∃ k, fetchPulse s = .next (({ s with draws := k } : State).setTapePos s.tapeLength)) ∨
    (s.tapePos.toNat < s.tapeLength.toNat ∧ ∃ (y : Symbol) (k : Nat) (l : Cnt),
      y.fitsVersion s.tapVersion = true ∧ y.wf = true ∧
      s.tapePos.toNat + (encodeSymbol y).length ≤ s.tapeLength.toNat ∧
      runSymbol y { s with draws := k } = fetchPulse s ∧
      fetchPulse s = .next (({ s with draws := k } : State).loadPulse l
        (BitVec.ofNat 32 (encodeSymbol y).length))) := by
  by_cases he : s.tapeLength.toNat ≤ s.tapePos.toNat
  · exact .inl ⟨he, by simp [fetchPulse, he]⟩
  · have hlt : s.tapePos.toNat < s.tapeLength.toNat := by omega
    obtain ⟨y?, k, hf, hy⟩ := fetchSymbol_next hlt
    cases y? with
    | none => exact .inr (.inl ⟨hlt, k, by simp [fetchPulse, he, hf]⟩)
    | some y =>
      obtain ⟨hv, hw, hl⟩ := hy y rfl
      obtain ⟨l, hr⟩ := runSymbol_next y { s with draws := k }
      have hp : fetchPulse s = runSymbol y { s with draws := k } := by simp [fetchPulse, he, hf]
      exact .inr (.inr ⟨hlt, y, k, l, hv, hw, hl, hp.symm, hp.trans hr⟩)

/-- The fetch answers next and touches only the cursor and the draw counter. -/
theorem fetchPulse_next (s : State) :
    ∃ (p : Pos) (l h : Cnt) (k : Nat),
      fetchPulse s = .next (({ s with draws := k } : State).setCursor p l h) := by
  rcases fetchPulse_cases s with ⟨_, h⟩ | ⟨_, k, h⟩ | ⟨_, y, k, l, _, _, _, _, h⟩
  · exact ⟨s.tapePos, s.cyclesLeft, s.halfwayCycles, s.draws, h⟩
  · exact ⟨s.tapeLength, s.cyclesLeft, s.halfwayCycles, k, h⟩
  · exact ⟨_, l, l / 2, k, h⟩

/-- Passing a symbol that fits before the end of the payload does not wrap the cursor (10_state.md R17). -/
theorem loadPulse_tapePos_toNat {s : State} {y : Symbol} (l : Cnt)
    (h : s.tapePos.toNat + (encodeSymbol y).length ≤ s.tapeLength.toNat) :
    (s.loadPulse l (BitVec.ofNat 32 (encodeSymbol y).length)).tapePos.toNat =
      s.tapePos.toNat + (encodeSymbol y).length := by
  have h1 := encodeSymbol_length_le y
  have h2 := s.tapeLength.isLt
  rw [State.loadPulse_tapePos, BitVec.toNat_add, BitVec.toNat_ofNat,
    Nat.mod_eq_of_lt (a := (encodeSymbol y).length) (by omega), Nat.mod_eq_of_lt (by omega)]

/-! ## The play handler -/

/-- A pulse in progress (41_pulse_player.md R96 to R98). -/
theorem playMotor_inProgress {s : State} (h : 2 ≤ s.cyclesLeft.toNat) :
    playMotor s = .next ((s.setCyclesLeft (countdown s.cyclesLeft)).setRead
      (readLevel (countdown s.cyclesLeft) s.halfwayCycles)) := by
  have : countdown s.cyclesLeft ≠ 0 := by rw [Ne, countdown_eq_zero]; omega
  rw [playMotor]; simp only [if_neg this]

/-- An elapsed pulse: `Read` is off and the fetch runs (41_pulse_player.md R99). -/
theorem playMotor_elapsed {s : State} (h : s.cyclesLeft.toNat ≤ 1) :
    playMotor s = fetchPulse ((s.setCyclesLeft 0).setSigOut (packOut (senseBit s.sigOut) false)) := by
  have h0 : countdown s.cyclesLeft = 0 := countdown_eq_zero.mpr h
  rw [playMotor]; simp only [h0, if_true]
  congr 1
  simp [State.setRead, State.setSigOut, State.setCyclesLeft, withRead]

/-- The play handler answers next; `Sense` is on, and beside the signals it touches only the cursor and the draw
counter (41_pulse_player.md R95 to R102). -/
theorem playCycle_next (s : State) :
    ∃ (p : Pos) (l h : Cnt) (k : Nat) (r : Bool),
      playCycle s =
        .next ((({ s with draws := k } : State).setCursor p l h).setSigOut (packOut true r)) := by
  unfold playCycle
  split
  · by_cases hc : 2 ≤ s.cyclesLeft.toNat
    · rw [playMotor_inProgress (by simpa using hc)]
      exact ⟨s.tapePos, countdown s.cyclesLeft, s.halfwayCycles, s.draws,
        readLevel (countdown s.cyclesLeft) s.halfwayCycles, by
          simp [State.setSense, State.setRead, State.setSigOut, State.setCyclesLeft, State.setCursor,
            withRead, withSense]⟩
    · rw [playMotor_elapsed (by simp; omega)]
      obtain ⟨p, l, h, k, hf⟩ := fetchPulse_next
        (((s.setSense true).setCyclesLeft 0).setSigOut (packOut (senseBit (s.setSense true).sigOut) false))
      exact ⟨p, l, h, k, false, by
        rw [hf]; simp [State.setSense, State.setSigOut, State.setCyclesLeft, State.setCursor, withSense]⟩
  · exact ⟨s.tapePos, s.cyclesLeft, s.halfwayCycles, s.draws, readBit s.sigOut, rfl⟩

/-- In Play, UPDATE answers what the play handler leaves, with its result (41_pulse_player.md R92). -/
theorem execUpdate_play {s t : State} (hm : s.mode = .play) (h : playCycle s = .next t) :
    execUpdate s = .next (t.deliverUpdate .running) := by
  simp [execUpdate, hm, h]

/-- Outside Play, UPDATE touches only the device's signals and the result (41_pulse_player.md R93, R94, R103). -/
theorem execUpdate_notPlay {s : State} (hm : s.mode ≠ .play) :
    ∃ g r, execUpdate s = .next ((s.setSigOut g).deliver r) := by
  unfold execUpdate
  split
  · exact ⟨_, _, rfl⟩
  · exact absurd ‹_› hm
  all_goals exact ⟨_, _, rfl⟩

/-- An UPDATE that ends a pulse is the fetch on the state with the signals `Sense = 1, Read = 0` and the countdown
at zero, with UPDATE's result; the fetch moves only the cursor and the draw counter (41_pulse_player.md R99). -/
theorem execUpdate_elapsed {s : State} (hm : s.mode = .play) (hmo : s.motor = true)
    (hc : s.cyclesLeft.toNat ≤ 1) :
    ∃ (p : Pos) (l h : Cnt) (k : Nat),
      fetchPulse { s with cyclesLeft := 0, sigOut := 0b01 } =
        .next { s with tapePos := p, cyclesLeft := l, halfwayCycles := h, sigOut := 0b01, draws := k } ∧
      execUpdate s = .next { s with
        tapePos := p, cyclesLeft := l, halfwayCycles := h, sigOut := 0b01, draws := k,
        result := .update (if s.tapeLength = 0 then .minus1 else .pos p) .running } := by
  obtain ⟨p, l, h, k, hf⟩ := fetchPulse_next { s with cyclesLeft := 0, sigOut := 0b01 }
  have hp : playCycle s = playMotor (s.setSense true) := by simp [playCycle, hmo]
  rw [playMotor_elapsed (by simpa using hc)] at hp
  have he : ((s.setSense true).setCyclesLeft 0).setSigOut
      (packOut (senseBit (s.setSense true).sigOut) false) = { s with cyclesLeft := 0, sigOut := 0b01 } := by
    rw [State.setSense_sigOut, senseBit_withSense]; rfl
  rw [he, hf] at hp
  exact ⟨p, l, h, k, hf, execUpdate_play hm hp⟩

/-- UPDATE answers next, and touches only the device's signals, the cursor, the result and the draw counter
(41_pulse_player.md R92, 10_state.md R34). -/
theorem execUpdate_next (s : State) :
    ∃ (p : Pos) (l h : Cnt) (k : Nat) (g : Sig) (r : Result),
      execUpdate s =
        .next (((({ s with draws := k } : State).setCursor p l h).setSigOut g).deliver r) := by
  by_cases hm : s.mode = .play
  · obtain ⟨p, l, h, k, r, hp⟩ := playCycle_next s
    exact ⟨p, l, h, k, packOut true r, _, execUpdate_play hm hp⟩
  · obtain ⟨g, r, h⟩ := execUpdate_notPlay hm
    exact ⟨s.tapePos, s.cyclesLeft, s.halfwayCycles, s.draws, g, r, h⟩

end Sys2Proof.Machine
end

