-- ==== Sys2Proof/Laws/Step.lean ====
section
/-!
SUPPORT. What one step can do, and how a run unrolls.
-/

namespace Sys2Proof.Machine

/-- A step that answers next idled, refused one word of the host, or ran one decoded operation. -/
theorem step_next_cases {s t : State} (h : step s = .next t) :
    (s.pending = [] ∧ t = s) ∨
    (∃ r rest e, s.pending = r :: rest ∧ decodeCommand r.cmd = .error e ∧ t = s.refuse r rest e) ∨
    (∃ i r rest, s.pending = r :: rest ∧ decodeCommand r.cmd = .ok i ∧ exec i (s.accept r rest) = .next t) := by
  unfold step fetchCommand at h
  cases hp : s.pending with
  | nil => simp only [hp] at h; cases h; exact .inl ⟨rfl, rfl⟩
  | cons r rest =>
    cases hd : decodeCommand r.cmd with
    | ok i => simp only [hp, hd] at h; exact .inr (.inr ⟨i, r, rest, rfl, hd, h⟩)
    | error e => simp only [hp, hd] at h; cases h; exact .inr (.inl ⟨r, rest, e, rfl, hd, rfl⟩)

/-- A run goes on from the next state. -/
theorem core_run_of_next {s t : State} (k : Nat) (h : step s = .next t) :
    Sys2Proof.core.run (k + 1) s = Sys2Proof.core.run k t := by
  have unroll : ∀ (M : Host.Core) (x y : M.State), M.step x = .next y → M.run (k + 1) x = M.run k y := by
    intro M x y hxy
    rw [Host.Core.run, hxy]
  exact unroll Sys2Proof.core s t h

end Sys2Proof.Machine
end

