-- ==== Sys2Proof/Tests/Slice0.lean ====
section
/-!
SUPPORT. The model's own tests: words and results worked out in spec/ (95_test_vectors.md names them V<n>), and a
witness for the hypotheses of every statement that has some.
-/

namespace Sys2Proof.Tests

open Sys2Proof.Machine

/-! ## Helpers -/

/-- A wholly loaded tape in Play with the motor on, at a cursor. -/
def playing (ver : Byte) (bytes : List Byte) (pos : Pos) (left half : Cnt) : State :=
  { ((State.reset.setTape bytes (BitVec.ofNat 32 bytes.length) (BitVec.ofNat 32 bytes.length)).setVersion
      ver).setCursor pos left half with mode := .play, sigIn := 0b10, sigOut := 0b01 }

/-- The tape `[07]` of V10 to V24, with a LOAD's source on the port. -/
def loading (src : Source) : State :=
  { State.reset.setTape [0x07] 1 1 with src := src }

/-- What V10 to V24 observe: the result, the tape and its version. -/
structure TapeView where
  result : Result
  data : Memory
  length : Pos
  filled : Pos
  version : Byte
deriving DecidableEq, Repr

/-- That of an outcome. -/
def tapeAfter (o : Host.Outcome State Fault Refusal) : Option TapeView :=
  match o with
  | .next t => some ⟨t.result, t.tapeData, t.tapeLength, t.tapeFilled, t.tapVersion⟩
  | .fault _ => none
  | .refused _ => none

/-- What the player's vectors observe: the result, the cursor and the device's signals. -/
structure PlayerView where
  result : Result
  cursor : Pos × Cnt × Cnt
  sigOut : Sig
deriving DecidableEq, Repr

/-- That of an outcome. -/
def playerAfter (o : Host.Outcome State Fault Refusal) : Option PlayerView :=
  match o with
  | .next t => some ⟨t.result, t.cursor, t.sigOut⟩
  | .fault _ => none
  | .refused _ => none

/-- The mark of refusals an outcome leaves. -/
def refusalsAfter (o : Host.Outcome State Fault Refusal) : Option (List RefusedCommand) :=
  match o with
  | .next t => some t.refusals
  | .fault _ => none
  | .refused _ => none

/-! ## Well-formedness -/

/-- The one check refuses the short pulse of byte 0x00, which is the escape (30_encoding.md R71). -/
theorem test_wf_refuses_a_zero_short_pulse : Instr.wf (.pulseShort 0x00) = false := by decide

/-- The same check on a symbol. -/
theorem test_symbol_wf_refuses_a_zero_short_pulse : Symbol.wf (.short 0x00) = false := by decide

/-! ## Decoding: words written out from 30_encoding.md R55 to R60 and V80 -/

theorem test_decode_load : decodeCommand 0b00010000 = .ok .load := by decide
theorem test_decode_save : decodeCommand 0b00100000 = .ok .save := by decide
theorem test_decode_reset : decodeCommand 0b00110000 = .ok .reset := by decide
theorem test_decode_update : decodeCommand 0b01010000 = .ok .update := by decide

theorem test_decode_setbtn :
    [0x40, 0x41, 0x42, 0x43, 0x44, 0x45].map decodeCommand =
      [.none, .play, .stop, .pause, .record, .done].map fun m => .ok (.setbtn m) := by decide

theorem test_decode_signals :
    [0b01100000, 0b01100001, 0b01100010, 0b01100011].map decodeCommand =
      [.ok (.signals false false), .ok (.signals false true), .ok (.signals true false),
        .ok (.signals true true)] := by decide

theorem test_decode_reserved_operands :
    ∀ w ∈ [0x11, 0x2F, 0x38, 0x46, 0x47, 0x48, 0x4D, 0x5F, 0x64, 0x68],
      decodeCommand w = .error .reservedOperand := by decide

theorem test_decode_reserved_opcodes :
    ∀ w ∈ [0x00, 0x0F, 0x70, 0x80, 0xF0, 0xFF], decodeCommand w = .error .reservedOpcode := by decide

/-- 30_encoding.md R71. -/
theorem test_decode_short : decodeSymbol 1 [0b00001010, 0x00] = some (.short 0x0A, [0x00]) := by decide

/-- 30_encoding.md R72: the bytes after the escape in payload order. -/
theorem test_decode_escV1 :
    decodeSymbol 1 [0b00000000, 0x11, 0x22, 0x33, 0x44] = some (.escV1 0x11 0x22 0x33, [0x44]) := by decide

/-- 30_encoding.md R73, R68: every other version. -/
theorem test_decode_escFixed : ∀ v ∈ [0, 2, 255], decodeSymbol v [0b00000000, 0x11] = some (.escFixed, [0x11]) := by
  decide

/-- 30_encoding.md R74: a truncated symbol. -/
theorem test_decode_truncated : decodeSymbol 1 [0x00, 0x11, 0x22] = none := by decide

/-- The rows of spec/opcode_table.json by their own words. -/
theorem test_decode_table_rows :
    [(8, 0x10), (8, 0x20), (8, 0x30), (8, 0x40), (8, 0x50), (8, 0x60), (8, 0x01), (32, 0x30201000), (8, 0x00)].map
        (fun p => decodeTableWord p.1 p.2) =
      [.load, .save, .reset, .setbtn .none, .update, .signals false false, .pulseShort 0x01,
        .escV1 0x10 0x20 0x30, .escFixed].map some := by decide

/-- The first step after reset runs a placed symbol: cursor and counter as R72 gives them. -/
theorem test_placed_escV1_runs :
    playerAfter (step (State.reset.withFetchWord 32 0x30201000)) =
      some ⟨.update (.pos 4) .running, (4, 0x302010, 0x181008), 0b01⟩ := by decide

theorem test_placed_escFixed_runs :
    playerAfter (step (State.reset.withFetchWord 8 0x00)) =
      some ⟨.update (.pos 1) .running, (1, 65535, 32767), 0b01⟩ := by decide

theorem test_placed_reserved_word_is_refused :
    refusalsAfter (step (State.reset.issueFirst 0x46)) = some [⟨0x46, .reservedOperand⟩] := by decide

/-- The mark stays when the next operation runs. -/
theorem test_refusal_is_sticky :
    refusalsAfter (step { State.reset.issueFirst 0x41 with refusals := [⟨0x46, .reservedOperand⟩] }) =
      some [⟨0x46, .reservedOperand⟩] := by decide

/-! ## LOAD and SAVE -/

/-- V10 to V16: the failures that keep the tape `[07]`, and what they do to the version. -/
theorem test_load_failures :
    let kept (r : Result) (v : Byte) := some (⟨r, [(0, 0x07)], 1, 1, v⟩ : TapeView)
    tapeAfter (exec .load (loading .notFound)) = kept (.load .fileNotFound false) 0 ∧
    tapeAfter (exec .load (loading (.stream (magic.take 11)))) = kept (.load .error true) 0 ∧
    tapeAfter (exec .load (loading (.stream (magic.take 11 ++ [0x58])))) = kept (.load .fileNotTAP true) 0 ∧
    tapeAfter (exec .load (loading (.stream magic))) = kept (.load .error true) 0 ∧
    tapeAfter (exec .load (loading (.stream (magic ++ [0x01, 0x00, 0x00])))) = kept (.load .error true) 1 ∧
    tapeAfter (exec .load (loading (.stream (magic ++ [0x01, 0, 0, 0, 0x01, 0, 0])))) =
      kept (.load .error true) 1 := by decide

/-- V18, V19, V20: a whole payload with trailing bytes; a truncated one under both policies. -/
theorem test_load_payloads :
    tapeAfter (exec .load (loading (.stream (tapContainer 0 [1, 2, 3] ++ [9, 9])))) =
      some ⟨.load .none true, [(0, 1), (1, 2), (2, 3)], 3, 3, 0⟩ ∧
    tapeAfter (exec .load (loading (.stream (magic ++ [0, 0, 0, 0, 5, 0, 0, 0, 1, 2])))) =
      some ⟨.load .tapTooShort true, [], 0, 0, 0⟩ ∧
    tapeAfter (exec .load { loading (.stream (magic ++ [0, 0, 0, 0, 5, 0, 0, 0, 1, 2])) with
        cfg := { Config.spec with truncPolicy := .legacy } }) =
      some ⟨.load .tapTooShort true, [(0, 1), (1, 2)], 5, 2, 0⟩ := by decide

/-- V21: the length is little-endian, `0x04030201`. -/
theorem test_length_is_little_endian : littleEndian [0x01, 0x02, 0x03, 0x04] = 0x04030201 := by decide

/-- V30, and the code of 30_encoding.md R61. -/
theorem test_save_returns_code_three :
    (match exec .save State.reset with
      | .next t => t.result.err?
      | .fault _ => none
      | .refused _ => none) = some 3 := by decide

/-! ## The player -/

/-- V2, UPDATE 1 and UPDATE 42, and V54's last step. -/
theorem test_update_short_pulse :
    playerAfter (exec .update (playing 0 [0x0A] 0 1 0)) = some ⟨.update (.pos 1) .running, (1, 80, 40), 0b01⟩ ∧
    playerAfter (exec .update (playing 0 [0x0A] 1 40 40)) = some ⟨.update (.pos 1) .running, (1, 39, 40), 0b11⟩ ∧
    playerAfter (exec .update (playing 0 [0x0A] 1 1 40)) = some ⟨.update (.pos 1) .running, (1, 0, 40), 0b01⟩ := by
  decide

/-- V60, V61, V63 and V6: the modes that do not play, from `(1, 3, 4) S=1 R=1`, and a deck with no tape. -/
theorem test_update_modes :
    let s : State := { playing 0 [0x01] 1 3 4 with sigOut := 0b11 }
    playerAfter (exec .update { s with mode := .stop }) = some ⟨.update (.pos 1) .none, (1, 3, 4), 0b10⟩ ∧
    playerAfter (exec .update { s with mode := .record }) = some ⟨.update (.pos 1) .notHandled, (1, 3, 4), 0b11⟩ ∧
    playerAfter (exec .update { s with mode := .done }) = some ⟨.update .minus1 .done, (1, 3, 4), 0b00⟩ ∧
    playerAfter (exec .update (playing 0 [] 0 1 0)) = some ⟨.update .minus1 .running, (0, 0, 0), 0b01⟩ := by
  decide

/-- V43, V47: the longest version-1 escape, and a truncated one (the cursor goes to `tapeLength`). -/
theorem test_update_escapes :
    playerAfter (exec .update (playing 1 [0, 0xFF, 0xFF, 0xFF] 0 0 9)) =
      some ⟨.update (.pos 4) .running, (4, 16777215, 8388607), 0b01⟩ ∧
    playerAfter (exec .update (playing 1 [0x01, 0x00, 0x10] 1 1 4)) =
      some ⟨.update (.pos 3) .running, (3, 0, 4), 0b01⟩ := by decide

/-- V3's symbol run by itself. -/
theorem test_symbol_escV1 :
    playerAfter (exec (.escV1 0x10 0x00 0x00) (playing 1 [0, 0x10, 0, 0] 0 0 0)) =
      some ⟨.nothing, (4, 16, 8), 0b01⟩ := by decide

/-- V41's symbol run by itself. -/
theorem test_symbol_short :
    playerAfter (exec (.pulseShort 0xFF) (playing 0 [0xFF] 0 0 0)) = some ⟨.nothing, (1, 2040, 1020), 0b01⟩ := by
  decide

/-- V49's symbol run by itself. -/
theorem test_symbol_escFixed :
    playerAfter (exec .escFixed (playing 2 [0x00] 0 0 0)) = some ⟨.nothing, (1, 65535, 32767), 0b01⟩ := by decide

/-! ## SIGNALS, RESET, SETBTN -/

/-- V70: `0x61` stores Write alone; the returned flags are the device's. -/
theorem test_signals :
    (match exec (.signals false true) { State.reset with sigOut := 0b11 } with
      | .next t => some (t.sigIn, t.result.sig?, t.sigOut)
      | .fault _ => none
      | .refused _ => none) = some (0b01, some 0b11, 0b11) := by decide

/-- V71. -/
theorem test_reset :
    playerAfter (exec .reset (playing 0 [1, 1, 1] 3 0 4)) = some ⟨.nothing, (0, 1, 0), 0b01⟩ := by decide

/-- V72: the signals wait for the next UPDATE. -/
theorem test_setbtn :
    (match exec (.setbtn .done) { playing 0 [1] 1 3 4 with sigOut := 0b11 } with
      | .next t => some (t.mode, t.sigOut)
      | .fault _ => none
      | .refused _ => none) = some (.done, 0b11) := by decide

/-! ## The host's side -/

/-- V85. -/
theorem test_classify :
    classify ['A', '.', 'T', 'a', 'P'] = .tap ∧ classify ['.', 't', 'a', 'p'] = .tap ∧
    classify ['a', '.', 't', 'a', 'p', '.', 'g', 'z'] = .unknown ∧ classify ['a', 't', 'a', 'p'] = .unknown ∧
    classify ['d', '.', 't', 'a', 'p', '/', 'f'] = .unknown := by decide

/-- P1's container and TICK's commands, 30_encoding.md R75, R76. -/
theorem test_host_words :
    tapContainer 0 [0x0A] = magic ++ [0, 0, 0, 0, 1, 0, 0, 0, 0x0A] ∧
    (tick true).map Request.cmd = [0x62, 0x50] ∧
    (bootSequence .notFound).map Request.cmd = [0x10, 0x30, 0x41] := by decide

/-! ## Witnesses: the hypotheses of the statements can be met -/

/-- A header of version 1 that declares four bytes, and its payload. -/
def witnessPayload : List Byte := [0x02, 0x03, 0x04, 0x05]

/-- That container with its payload cut to `n` bytes. -/
def witnessStream (n : Nat) : List Byte :=
  magic ++ 1 :: 0 :: 0 :: 0 :: 4 :: 0 :: 0 :: 0 :: witnessPayload.take n

theorem witness_DecodeOfEncodeIsTheInstruction :
    Instr.wf (.setbtn .done) = true ∧ Instr.isCommand (.setbtn .done) = true ∧
    Instr.wf (.escV1 1 2 3) = true ∧ Instr.isCommand (.escV1 1 2 3) = false ∧
    symbolInstr (.escV1 1 2 3) = .escV1 1 2 3 ∧ Symbol.fitsVersion 1 (.escV1 1 2 3) = true := by decide

theorem witness_EncodeOfDecodeIsTheBytes :
    decodeCommand 0x63 = .ok (.signals true true) ∧ decodeSymbol 1 [0, 1, 2, 3] = some (.escV1 1 2 3, []) := by
  decide

theorem witness_StepRunsTheDecodedCommand :
    (State.reset.issueFirst 0x41).pending = ⟨0x41, .notFound⟩ :: [] ∧
    decodeCommand 0x41 = .ok (.setbtn .play) := by decide

/-- Each clause at its boundary words: opcodes 0x0 and 0x7; operand 1, mode codes 6 and 7, `arg[3]`, `arg[3:2]`;
the highest word in use. -/
theorem witness_StepRefusesReservedWords :
    (State.reset.issueFirst 0x70).pending = ⟨0x70, .notFound⟩ :: [] ∧
    (∀ w ∈ [(0x00 : Byte), 0x0F, 0x70, 0xFF], w.extractLsb' 4 4 = 0x0 ∨ 0x7 ≤ w.extractLsb' 4 4) ∧
    (∀ w ∈ [(0x11 : Byte), 0x51], (w.extractLsb' 4 4 = 0x1 ∨ w.extractLsb' 4 4 = 0x5) ∧ w.extractLsb' 0 4 ≠ 0) ∧
    (∀ w ∈ [(0x46 : Byte), 0x47, 0x48], w.extractLsb' 4 4 = 0x4 ∧ ((w.extractLsb' 0 4).getLsbD 3 = true ∨
      (w.extractLsb' 0 4).extractLsb' 0 3 = 6 ∨ (w.extractLsb' 0 4).extractLsb' 0 3 = 7)) ∧
    ((0x64 : Byte).extractLsb' 4 4 = 0x6 ∧ ((0x64 : Byte).extractLsb' 0 4).extractLsb' 2 2 ≠ 0) ∧
    (¬((0x63 : Byte).extractLsb' 4 4 = 0x0 ∨ 0x7 ≤ (0x63 : Byte).extractLsb' 4 4) ∧
      ((0x63 : Byte).extractLsb' 0 4).extractLsb' 2 2 = 0) := by decide

theorem witness_RefusalIsStickyAndTheRunGoesOn :
    ((State.reset.issueFirst 0x41).issueFirst 0x46).pending = ⟨0x46, .notFound⟩ :: ⟨0x41, .notFound⟩ :: [] ∧
    decodeCommand 0x46 = .error .reservedOperand ∧ decodeCommand 0x41 = .ok (.setbtn .play) := by decide

theorem witness_StepIdlesWithoutACommand : State.reset.pending = [] := by decide

theorem witness_PlacedCommandRunsNext : decodeCommand 0x45 = .ok (.setbtn .done) := by decide

theorem witness_LoadOfUnopenedSource : (loading .notFound).src = .notFound := by decide

theorem witness_LoadChecksTheMagic :
    (loading (.stream (magic.take 11))).src = .stream (magic.take 11) ∧ (magic.take 11).length < 12 ∧
    (loading (.stream (0x63 :: magic.drop 1))).src = .stream (0x63 :: magic.drop 1) ∧
    12 ≤ (0x63 :: magic.drop 1).length ∧
    (0x63 :: magic.drop 1).take 12 ≠
      [0x43, 0x36, 0x34, 0x2D, 0x54, 0x41, 0x50, 0x45, 0x2D, 0x52, 0x41, 0x57] := by decide

theorem witness_LoadShortHeaderIsError :
    (loading (.stream magic)).src = .stream magic ∧
    (loading (.stream (magic ++ 1 :: [0, 0, 0, 4, 0, 0]))).src = .stream (magic ++ 1 :: [0, 0, 0, 4, 0, 0]) ∧
    ([0, 0, 0, 4, 0, 0] : List Byte).length < 7 := by decide

theorem witness_LoadAboveCapacityIsError :
    let s := { loading (.stream (witnessStream 4)) with cfg := { Config.spec with tapeCapacity := 3 } }
    s.src = .stream (magic ++ 1 :: 0 :: 0 :: 0 :: 4 :: 0 :: 0 :: 0 :: witnessPayload) ∧
    s.cfg.tapeCapacity <
      (4 : Byte).toNat + (0 : Byte).toNat * 2 ^ 8 + (0 : Byte).toNat * 2 ^ 16 + (0 : Byte).toNat * 2 ^ 24 := by
  decide

/-- For LoadReplacesTheTape and LoadedPayloadReadsBack: the length is the capacity and all that is there. -/
theorem witness_LoadReplacesTheTape :
    let s := { loading (.stream (witnessStream 4)) with cfg := { Config.spec with tapeCapacity := 4 } }
    s.src = .stream (magic ++ 1 :: 0 :: 0 :: 0 :: 4 :: 0 :: 0 :: 0 :: witnessPayload) ∧
    4 = (4 : Byte).toNat + (0 : Byte).toNat * 2 ^ 8 + (0 : Byte).toNat * 2 ^ 16 + (0 : Byte).toNat * 2 ^ 24 ∧
    4 ≤ s.cfg.tapeCapacity ∧ 4 ≤ witnessPayload.length := by decide

theorem witness_LoadedPayloadReadsBack :
    let s := { loading (.stream (witnessStream 4)) with cfg := { Config.spec with tapeCapacity := 4 } }
    s.src = .stream (magic ++ 1 :: 0 :: 0 :: 0 :: 4 :: 0 :: 0 :: 0 :: witnessPayload) ∧
    4 = (4 : Byte).toNat + (0 : Byte).toNat * 2 ^ 8 + (0 : Byte).toNat * 2 ^ 16 + (0 : Byte).toNat * 2 ^ 24 ∧
    4 ≤ s.cfg.tapeCapacity ∧ 4 ≤ witnessPayload.length ∧ 3 < 4 ∧ witnessPayload[3]? = some 0x05 ∧ 4 ≤ 4 := by
  decide

theorem witness_LoadTruncatedPayload :
    let s := loading (.stream (witnessStream 3))
    let q := { s with cfg := { Config.spec with truncPolicy := .legacy } }
    s.src = .stream (magic ++ 1 :: 0 :: 0 :: 0 :: 4 :: 0 :: 0 :: 0 :: [0x02, 0x03, 0x04]) ∧ q.src = s.src ∧
    4 = (4 : Byte).toNat + (0 : Byte).toNat * 2 ^ 8 + (0 : Byte).toNat * 2 ^ 16 + (0 : Byte).toNat * 2 ^ 24 ∧
    4 ≤ s.cfg.tapeCapacity ∧ ([0x02, 0x03, 0x04] : List Byte).length < 4 ∧
    s.cfg.truncPolicy = .reject ∧ q.cfg.truncPolicy = .legacy := by decide

theorem witness_LoadIgnoresTrailingAndReservedBytes :
    (tapeAfter (exec .load { State.reset with
        src := .stream (magic ++ 1 :: 0 :: 0 :: 0 :: 4 :: 0 :: 0 :: 0 :: witnessPayload) })).map TapeView.result =
      some (.load .none true) := by decide

theorem witness_SaveAlwaysFails : State.reset.cfg.wf = true := by decide

theorem witness_ModeChangeKeepsTheCursor : Mode.record ≠ .play := by decide

theorem witness_UpdateInDone : ({ playing 0 [1] 1 3 4 with mode := .done }).mode = .done := by decide

theorem witness_UpdateWhileStopped :
    ∀ m ∈ [Mode.none, Mode.stop, Mode.pause],
      let s := { playing 0 [1] 1 3 4 with mode := m }
      s.mode = .none ∨ s.mode = .stop ∨ s.mode = .pause := by decide

theorem witness_UpdateInRecord : ({ playing 0 [1] 1 3 4 with mode := .record }).mode = .record := by decide

theorem witness_UpdateStallsWithoutMotor :
    let s := { playing 0 [1] 1 3 4 with sigIn := 0b01 }
    s.mode = .play ∧ s.sigIn.getLsbD 1 = false := by decide

/-- At the boundary: the last count that is still in progress. -/
theorem witness_UpdateCountsDown :
    let s := playing 0 [1] 1 2 4
    s.mode = .play ∧ s.sigIn.getLsbD 1 = true ∧ 2 ≤ s.cyclesLeft.toNat := by decide

/-- At the boundary: the cursor at the end, the countdown at 1 and at 0. -/
theorem witness_UpdateIdlesAtEndOfData :
    ∀ s ∈ [playing 0 [1] 1 1 4, playing 0 [1] 1 0 4],
      s.mode = .play ∧ s.sigIn.getLsbD 1 = true ∧ s.cyclesLeft.toNat ≤ 1 ∧
      s.tapeLength.toNat ≤ s.tapePos.toNat := by decide

theorem witness_UpdateFetchesAShortPulse :
    let s := playing 1 [0, 0xFF] 1 1 4
    s.mode = .play ∧ s.sigIn.getLsbD 1 = true ∧ s.cyclesLeft.toNat ≤ 1 ∧ s.Holds s.tapePos.toNat 0xFF ∧
    (0xFF : Byte) ≠ 0x00 := by decide

/-- Exactly four bytes remain (V48). -/
theorem witness_UpdateFetchesAVersionOneEscape :
    let s := playing 1 [0, 0x10, 0x20, 0x30] 0 0 4
    s.mode = .play ∧ s.sigIn.getLsbD 1 = true ∧ s.cyclesLeft.toNat ≤ 1 ∧ s.tapVersion = 1 ∧
    s.Holds s.tapePos.toNat 0x00 ∧ s.Holds (s.tapePos.toNat + 1) 0x10 ∧ s.Holds (s.tapePos.toNat + 2) 0x20 ∧
    s.Holds (s.tapePos.toNat + 3) 0x30 := by decide

theorem witness_UpdateFetchesAFixedEscape :
    let s := playing 2 [0] 0 1 4
    s.mode = .play ∧ s.sigIn.getLsbD 1 = true ∧ s.cyclesLeft.toNat ≤ 1 ∧ s.tapVersion ≠ 1 ∧
    s.Holds s.tapePos.toNat 0x00 := by decide

/-- Three bytes remain, one too few. -/
theorem witness_UpdateAtATruncatedEscape :
    let s := playing 1 [0, 0x10, 0x20] 0 1 4
    s.mode = .play ∧ s.sigIn.getLsbD 1 = true ∧ s.cyclesLeft.toNat ≤ 1 ∧ s.tapVersion = 1 ∧
    s.Holds s.tapePos.toNat 0x00 ∧ s.tapeLength.toNat < s.tapePos.toNat + 4 := by decide

/-- V57's tape: two of four bytes written, the cursor at the first that is not. -/
theorem witness_UpdateFetchesADrawnByte :
    let s := { playing 0 [1, 2] 2 1 4 with tapeLength := 4 }
    s.mode = .play ∧ s.sigIn.getLsbD 1 = true ∧ s.cyclesLeft.toNat ≤ 1 ∧ s.tapVersion ≠ 1 ∧
    s.tapeFilled.toNat ≤ s.tapePos.toNat ∧ s.tapePos.toNat < s.tapeLength.toNat := by decide

/-- A version-1 tape of eight bytes of which two are written: four indices left, then three. -/
theorem witness_UpdateFetchesADrawnVersionOneSymbol :
    let s := { playing 1 [1, 2] 4 1 4 with tapeLength := 8 }
    let q := { playing 1 [1, 2] 5 1 4 with tapeLength := 8 }
    s.mode = .play ∧ s.sigIn.getLsbD 1 = true ∧ s.cyclesLeft.toNat ≤ 1 ∧ s.tapVersion = 1 ∧
    s.tapeFilled.toNat ≤ s.tapePos.toNat ∧ s.tapePos.toNat + 4 = s.tapeLength.toNat ∧
    q.tapeFilled.toNat ≤ q.tapePos.toNat ∧ q.tapePos.toNat + 3 = q.tapeLength.toNat := by decide

/-- One, two and three bytes of the escape are written; in the last it ends where the tape does. -/
theorem witness_UpdateFetchesAStraddlingVersionOneEscape :
    let s := { playing 1 [0x00] 0 1 0 with tapeLength := 5 }
    let q := { playing 1 [0x00, 0x10] 0 1 0 with tapeLength := 5 }
    let r := { playing 1 [0x00, 0x10, 0x20] 0 0 4 with tapeLength := 4 }
    s.mode = .play ∧ s.sigIn.getLsbD 1 = true ∧ s.cyclesLeft.toNat ≤ 1 ∧ s.tapVersion = 1 ∧
    s.Holds s.tapePos.toNat 0x00 ∧ s.tapePos.toNat + 4 ≤ s.tapeLength.toNat ∧
    s.tapeFilled.toNat = s.tapePos.toNat + 1 ∧
    q.Holds q.tapePos.toNat 0x00 ∧ q.tapePos.toNat + 4 ≤ q.tapeLength.toNat ∧
    q.tapeFilled.toNat = q.tapePos.toNat + 2 ∧ q.Holds (q.tapePos.toNat + 1) 0x10 ∧
    r.Holds r.tapePos.toNat 0x00 ∧ r.tapePos.toNat + 4 ≤ r.tapeLength.toNat ∧
    r.tapeFilled.toNat = r.tapePos.toNat + 3 ∧ r.Holds (r.tapePos.toNat + 1) 0x10 ∧
    r.Holds (r.tapePos.toNat + 2) 0x20 := by decide

/-- Indices 1, 2, 3 and 4 of V57's tape: filled, the first and the last unfilled, past the end. -/
theorem witness_PayloadReadHasThreeOutcomes :
    let s := { playing 0 [1, 2] 2 1 4 with tapeLength := 4 }
    s.tapeLength.toNat ≤ 4 ∧ s.Holds 1 2 ∧ s.tapeFilled.toNat ≤ 2 ∧ 2 < s.tapeLength.toNat ∧
    s.tapeFilled.toNat ≤ 3 ∧ 3 < s.tapeLength.toNat := by decide

theorem witness_UpdateRunsTheSymbolAtTheCursor :
    let s := playing 1 [0, 0x10, 0x20, 0x30] 0 1 4
    let y : Symbol := .escV1 0x10 0x20 0x30
    s.mode = .play ∧ s.sigIn.getLsbD 1 = true ∧ s.cyclesLeft.toNat ≤ 1 ∧ y.wf = true ∧
    y.fitsVersion s.tapVersion = true ∧
    ∀ (k : Nat) (b : Byte), (encode (symbolInstr y))[k]? = some b → s.Holds (s.tapePos.toNat + k) b := by
  refine ⟨by decide, by decide, by decide, by decide, by decide, ?_⟩
  intro k b h
  match k with
  | 0 => cases h; decide
  | 1 => cases h; decide
  | 2 => cases h; decide
  | 3 => cases h; decide
  | k + 4 => cases h

theorem witness_UpdateGatesTheSignalsByMode :
    let d := { playing 0 [1] 1 3 4 with mode := .done }
    let s := { playing 0 [1] 1 3 4 with sigIn := 0b00 }
    d.mode = .done ∧ s.mode ≠ .done ∧ ¬(s.mode = .play ∧ s.sigIn.getLsbD 1 = true) := by decide

theorem witness_ReadIsHighExactlyBelowHalfway :
    let s := playing 0 [1] 1 4 4
    s.mode = .play ∧ s.sigIn.getLsbD 1 = true := by decide

theorem witness_OtherVersionsDecodeLikeZero : (2 : Byte) ≠ 1 := by decide

/-- For the statements about commands: OperationsWriteOnlyTheirRegisters, ResultsAreNeverRead. -/
theorem witness_OperationsWriteOnlyTheirRegisters :
    Instr.isCommand .save = true ∧ Instr.save ≠ .load ∧ Instr.save ≠ .reset ∧ Instr.save ≠ .update ∧
    (∀ m, Instr.save ≠ .setbtn m) ∧ (∀ m w, Instr.save ≠ .signals m w) := by
  refine ⟨by decide, by decide, by decide, by decide, ?_, ?_⟩ <;> intros <;> simp

theorem witness_OnlyLoadChangesTheBuffer : Instr.update ≠ .load := by decide

theorem witness_ResultsAreNeverRead : Instr.isCommand .update = true := by decide

theorem witness_WriteFlagIsNeverRead :
    Instr.isCommand .update = true ∧ ∀ m w, Instr.update ≠ .signals m w :=
  ⟨rfl, fun _ _ => by simp⟩

theorem witness_FilledTapesNeedNoDraws : (playing 1 [0, 1, 2, 3] 0 1 0).AllFilled := by decide

theorem witness_StepKeepsTheInvariant :
    ((playing 1 [0, 1, 2, 3] 0 1 0).issueFirst 0x50).Inv ∧
    ∃ t, step ((playing 1 [0, 1, 2, 3] 0 1 0).issueFirst 0x50) = .next t := ⟨by decide, _, rfl⟩

/-- One operation issued, and none. -/
theorem witness_StepKeepsIssuedCommandsDecodable :
    (State.reset.issueFirst 0x63).AllIssuedDecode ∧ State.reset.AllIssuedDecode := by
  refine ⟨fun r h => ?_, fun r h => absurd h (by simp [State.reset])⟩
  obtain rfl : r = ⟨0x63, .notFound⟩ := by simpa [State.issueFirst, State.reset] using h
  exact ⟨.signals true true, rfl⟩

theorem witness_RunsOfIssuedCommandsNeverStop : (State.reset.issueFirst 0x50).AllIssuedDecode := by
  intro r h
  obtain rfl : r = ⟨0x50, .notFound⟩ := by simpa [State.issueFirst, State.reset] using h
  exact ⟨.update, rfl⟩

theorem witness_EndOfTapeIsStable :
    let s := playing 0 [1] 1 0 4
    s.mode = .play ∧ s.sigIn.getLsbD 1 = true ∧ s.cyclesLeft = 0 ∧ s.tapeLength.toNat ≤ s.tapePos.toNat ∧
    1 ≤ 1 := by decide

/-- Both clauses, at pulse length 5: `j` from 1 to 4, the rise after `j = 4` (V50); the cursor at the end and
before it. -/
theorem witness_PulseWaveform :
    let s := playing 1 [0, 5, 0, 0] 4 5 2
    let q := playing 1 [0, 5, 0, 0, 1] 4 5 2
    s.mode = .play ∧ s.sigIn.getLsbD 1 = true ∧ s.cyclesLeft.toNat = 5 ∧ s.halfwayCycles.toNat = 5 / 2 ∧
    1 ≤ 1 ∧ 4 < 5 ∧ s.tapeLength.toNat ≤ s.tapePos.toNat ∧
    q.mode = .play ∧ q.sigIn.getLsbD 1 = true ∧ q.cyclesLeft.toNat = 5 ∧ q.halfwayCycles.toNat = 5 / 2 ∧
    q.tapePos.toNat < q.tapeLength.toNat := by decide

/-- V8's tape: pulses 16 and 16, the end at UPDATE 33. -/
theorem witness_TapePlaysToItsEnd :
    let P : List Byte := [0x00, 0x10, 0x00, 0x00, 0x02]
    let s := playing 1 P 0 1 0
    s.mode = .play ∧ s.sigIn.getLsbD 1 = true ∧ P.length < 2 ^ 32 ∧ s.tapeData = Memory.ofBytes P ∧
    s.tapeLength = BitVec.ofNat 32 P.length ∧ s.tapeFilled = s.tapeLength ∧ s.cursor = (0, 1, 0) ∧
    DecodesToPulses s.tapVersion P [16, 16] ∧ tapeTime [16, 16] = 33 ∧ 1 ≤ P.length := by
  refine ⟨by decide, by decide, by decide, by decide, by decide, by decide, by decide, ?_, by decide, by decide⟩
  exact .escV1 0x10 0x00 0x00 [0x02] [16] rfl (.short 0x02 [] [] (by decide) .endOfPayload)

end Sys2Proof.Tests
end

section
/-!
SUPPORT. What the host's command port gives the step, and the step that follows from it (00_scope.md R5).
-/

namespace Sys2Proof.Machine

/-- The port is idle where the host has issued nothing (log 2). -/
theorem fetchCommand_of_pending_nil {s : State} (hp : s.pending = []) : fetchCommand s = .idle := by
  simp only [fetchCommand, hp]

/-- A decodable word at the head of the queue is accepted with its source argument (30_encoding.md R53). -/
theorem fetchCommand_of_decode_ok {s : State} {r : Request} {rest : List Request} {i : Instr}
    (hp : s.pending = r :: rest) (hd : decodeCommand r.cmd = .ok i) :
    fetchCommand s = .command i (s.accept r rest) := by
  simp only [fetchCommand, hp, hd]

theorem step_of_fetch_idle {s : State} (hf : fetchCommand s = .idle) : step s = .next s := by
  simp only [step, hf]

theorem step_of_fetch_command {s t : State} {i : Instr} (hf : fetchCommand s = .command i t) :
    step s = exec i t := by
  simp only [step, hf]

/-- Settles O5: the port accepts the decoded word, and what it hands to `exec` is the queue's tail with the word's
source argument on `src`. -/
theorem stepRunsTheDecodedCommand : Obligations.StepRunsTheDecodedCommand := by
  intro s r rest i hp hd
  have hf : fetchCommand s = .command i (s.accept r rest) := fetchCommand_of_decode_ok hp hd
  calc step s = exec i (s.accept r rest) := step_of_fetch_command hf
    _ = exec i { s with pending := rest, src := r.src } := by rw [State.accept]

/-- Settles O7: an empty queue leaves the port idle, and the step on an idle port changes nothing. -/
theorem stepIdlesWithoutACommand : Obligations.StepIdlesWithoutACommand := by
  intro s hp
  exact step_of_fetch_idle (fetchCommand_of_pending_nil hp)

end Sys2Proof.Machine
end

section
/-!
SUPPORT. What the fetch and UPDATE do to the cursor, and the invariant (10_state.md R17, R31, R33).
-/

namespace Sys2Proof.Machine

/-! ## What UPDATE can do -/

/-- A completed fetch moves the payload cursor forward, and from before the end of the payload not past it
(10_state.md R17). -/
theorem fetchPulse_tapePos {s t : State} (h : fetchPulse s = .next t) :
    s.tapePos.toNat ≤ t.tapePos.toNat ∧ t.tapePos.toNat ≤ max s.tapePos.toNat s.tapeLength.toNat := by
  rcases fetchPulse_cases s with ⟨_, hf⟩ | ⟨hlt, k, hf⟩ | ⟨_, y, k, l, _, _, hle, _, hf⟩
  all_goals obtain rfl := Host.Outcome.next.inj (h.symm.trans hf)
  · exact ⟨le_refl _, le_max_left _ _⟩
  · exact ⟨hlt.le, le_max_right _ _⟩
  · have hpos := loadPulse_tapePos_toNat (s := { s with draws := k }) l hle
    simp only at hpos
    omega

/-- A completed fetch leaves the counter and the halfway point, or sets the halfway point to half of the new
counter (41_pulse_player.md R101). -/
theorem fetchPulse_counters {s t : State} (h : fetchPulse s = .next t) :
    (t.cyclesLeft = s.cyclesLeft ∧ t.halfwayCycles = s.halfwayCycles) ∨
      t.halfwayCycles = t.cyclesLeft / 2 := by
  rcases fetchPulse_cases s with ⟨_, hf⟩ | ⟨_, k, hf⟩ | ⟨_, y, k, l, _, _, _, _, hf⟩
  all_goals obtain rfl := Host.Outcome.next.inj (h.symm.trans hf)
  · exact .inl ⟨rfl, rfl⟩
  · exact .inl ⟨rfl, rfl⟩
  · exact .inr rfl

/-- Where the deck does not play, UPDATE touches only the device's signals and the result
(41_pulse_player.md R93 to R95, R103). -/
theorem execUpdate_notPlaying {s : State} (h : ¬ s.Playing) :
    ∃ g r, execUpdate s = .next ((s.setSigOut g).deliver r) := by
  by_cases hm : s.mode = .play
  · have hmo : s.motor = false := by simpa [hm] using h
    have hp : playCycle s = .next (s.setSense true) := by simp [playCycle, hmo]
    exact ⟨_, _, execUpdate_play hm hp⟩
  · exact execUpdate_notPlay hm

/-- An UPDATE inside a pulse counts down and sets `Read` by the transition detector
(41_pulse_player.md R96 to R98). -/
theorem execUpdate_inProgress {s : State} (hp : s.Playing) (hc : 2 ≤ s.cyclesLeft.toNat) :
    ∃ r, execUpdate s = .next (((s.setCyclesLeft (countdown s.cyclesLeft)).setSigOut
      (packOut true (readLevel (countdown s.cyclesLeft) s.halfwayCycles))).deliver r) := by
  obtain ⟨hm, hmo⟩ := hp
  have hcycle : playCycle s = playMotor (s.setSense true) := by simp [playCycle, hmo]
  rw [playMotor_inProgress (by simpa using hc)] at hcycle
  have hsig : ((s.setSense true).setCyclesLeft (countdown s.cyclesLeft)).setRead
      (readLevel (countdown s.cyclesLeft) s.halfwayCycles) =
      (s.setCyclesLeft (countdown s.cyclesLeft)).setSigOut
        (packOut true (readLevel (countdown s.cyclesLeft) s.halfwayCycles)) := by
    rw [State.setRead, withRead, State.setCyclesLeft_sigOut, State.setSense_sigOut, senseBit_withSense]
    rfl
  exact ⟨_, execUpdate_play hm (hcycle.trans (congrArg _ hsig))⟩

/-- The three things UPDATE can do: hold the cursor, count the pulse down, or fetch
(41_pulse_player.md R92 to R103). -/
theorem execUpdate_cases (s : State) :
    (∃ g r, execUpdate s = .next ((s.setSigOut g).deliver r)) ∨
    (∃ l g r, execUpdate s = .next (((s.setCyclesLeft l).setSigOut g).deliver r)) ∨
    (∃ p l h k r, fetchPulse { s with cyclesLeft := 0, sigOut := 0b01 } =
        .next { s with tapePos := p, cyclesLeft := l, halfwayCycles := h, sigOut := 0b01, draws := k } ∧
      execUpdate s = .next { s with
        tapePos := p, cyclesLeft := l, halfwayCycles := h, sigOut := 0b01, draws := k, result := r }) := by
  by_cases hp : s.Playing
  · by_cases hc : 2 ≤ s.cyclesLeft.toNat
    · obtain ⟨r, h⟩ := execUpdate_inProgress hp hc
      exact .inr (.inl ⟨_, _, r, h⟩)
    · obtain ⟨p, l, h, k, hf, hu⟩ := execUpdate_elapsed hp.1 hp.2 (by omega)
      exact .inr (.inr ⟨p, l, h, k, _, hf, hu⟩)
  · exact .inl (execUpdate_notPlaying hp)

/-! ## The invariant -/

theorem half_cnt_toNat (l : Cnt) : (l / 2).toNat = l.toNat / 2 := by
  simp [BitVec.toNat_udiv]

/-- Half of a counter is below `2 ^ 23` (10_state.md R33). -/
theorem half_cnt_le (l : Cnt) : (l / 2).toNat ≤ 2 ^ 23 - 1 := by
  have hl := l.isLt
  rw [half_cnt_toNat]
  omega

/-- A cursor write whose halfway point is in range keeps the invariant. -/
theorem inv_setCursor {s : State} (hs : s.Inv) (p : Pos) (l : Cnt) {h : Cnt} (hh : h.toNat ≤ 2 ^ 23 - 1) :
    (s.setCursor p l h).Inv := by
  obtain ⟨hwf, hbuf, hle, heq, _, hcfg⟩ := hs
  exact ⟨hwf, hbuf, hle, heq, hh, hcfg⟩

/-- A tape write that fills as many bytes as it says, as the policy asks, keeps the invariant
(40_container_parser.md R84 to R86). -/
theorem inv_setTape {s : State} (hs : s.Inv) {bytes : List Byte} {l f : Pos} (hlen : bytes.length = f.toNat)
    (hle : f ≤ l) (heq : s.cfg.truncPolicy = .reject → f = l) : (s.setTape bytes l f).Inv := by
  obtain ⟨_, _, _, _, hh, hcfg⟩ := hs
  have hbuf : (s.setTape bytes l f).BufferMatches := by simp [State.BufferMatches, hlen]
  exact ⟨Memory.wf_ofBytes bytes, hbuf, hle, heq, hh, hcfg⟩

/-- A fetched pulse keeps the invariant (41_pulse_player.md R101). -/
theorem inv_loadPulse {s : State} (hs : s.Inv) (l : Cnt) (size : Pos) : (s.loadPulse l size).Inv :=
  inv_setCursor hs _ l (half_cnt_le l)

/-- LOAD keeps the invariant: it writes no tape, or one that meets the buffer's clauses. -/
theorem execLoad_keeps_inv {s t : State} (hs : s.Inv) (h : execLoad s = .next t) : t.Inv := by
  unfold execLoad at h
  split at h
  all_goals obtain rfl := Host.Outcome.next.inj h
  · exact hs
  · next bytes _ =>
    rcases loadStream_cases bytes s with ⟨e, hl, _⟩ | ⟨v, hl⟩ | ⟨v, e, bs, l, f, hl, hlen, hle, heq, _⟩
    all_goals rw [hl]
    · exact hs
    · exact hs
    · exact inv_setTape (s := s.setVersion v) hs hlen hle heq

/-- UPDATE keeps the invariant: only a fetch writes the halfway point, to half of a counter. -/
theorem execUpdate_keeps_inv {s t : State} (hs : s.Inv) (h : execUpdate s = .next t) : t.Inv := by
  rcases execUpdate_cases s with ⟨g, r, hu⟩ | ⟨l, g, r, hu⟩ | ⟨p, l, hw, k, r, hf, hu⟩
  all_goals obtain rfl := Host.Outcome.next.inj (h.symm.trans hu)
  · exact hs
  · exact hs
  · have hhalf : hw.toNat ≤ 2 ^ 23 - 1 := by
      rcases fetchPulse_counters hf with ⟨_, hkept⟩ | hset
      · obtain ⟨_, _, _, _, hh, _⟩ := hs
        exact (congrArg BitVec.toNat hkept).trans_le hh
      · exact (congrArg BitVec.toNat hset).trans_le (half_cnt_le l)
    exact inv_setCursor hs p l hhalf

/-- Every instruction keeps the invariant. -/
theorem exec_keeps_inv {i : Instr} {s t : State} (hs : s.Inv) (h : exec i s = .next t) : t.Inv := by
  cases i with
  | load => exact execLoad_keeps_inv hs h
  | update => exact execUpdate_keeps_inv hs h
  | save | setbtn m | signals m w =>
    obtain rfl := Host.Outcome.next.inj h
    exact hs
  | reset =>
    obtain rfl := Host.Outcome.next.inj h
    exact inv_setCursor hs 0 1 (Nat.zero_le _)
  | pulseShort b | escV1 b0 b1 b2 | escFixed =>
    obtain rfl := Host.Outcome.next.inj h
    exact inv_loadPulse hs _ _

/-- Settles O53: a step idles, refuses a word, or runs an instruction; accepting or refusing a word touches no field
that the invariant speaks of, and every instruction keeps it. -/
theorem stepKeepsTheInvariant : Obligations.StepKeepsTheInvariant := by
  intro s t hs h
  rcases step_next_cases h with ⟨_, rfl⟩ | ⟨r, rest, e, _, _, rfl⟩ | ⟨i, r, rest, _, _, hexec⟩
  · exact hs
  · exact hs
  · have haccept : (s.accept r rest).Inv := hs
    exact exec_keeps_inv haccept hexec

/-- Settles O52: the buffer is empty, as `tapeFilled` and `tapeLength` say, and the parameters are this spec's. -/
theorem invariantHoldsAtReset : Obligations.InvariantHoldsAtReset :=
  ⟨reset_tapeData_wf, rfl, BitVec.le_refl _, fun _ => rfl, Nat.zero_le _, by decide⟩

/-! ## The cursor and `Read` after UPDATE -/

/-- Settles O43: UPDATE holds the payload cursor unless it fetches, and the fetch moves it forward, within the tape. -/
theorem updateMovesTheCursorForward : Obligations.UpdateMovesTheCursorForward := by
  intro s
  rcases execUpdate_cases s with ⟨g, r, hu⟩ | ⟨l, g, r, hu⟩ | ⟨p, l, h, k, r, hf, hu⟩
  · exact ⟨_, hu, BitVec.le_refl s.tapePos, le_max_left _ _⟩
  · exact ⟨_, hu, BitVec.le_refl s.tapePos, le_max_left _ _⟩
  · obtain ⟨hforward, hwithin⟩ := fetchPulse_tapePos hf
    exact ⟨_, hu, BitVec.le_def.mpr hforward, hwithin⟩

/-- A fetch from an elapsed counter does not leave it in the high part of a pulse: it is still 0, or the halfway point
is half of it (41_pulse_player.md R99, R101). -/
theorem fetchPulse_not_belowHalfway {s t : State} (h0 : s.cyclesLeft = 0) (h : fetchPulse s = .next t) :
    ¬ (1 ≤ t.cyclesLeft.toNat ∧ t.cyclesLeft.toNat < t.halfwayCycles.toNat) := by
  rcases fetchPulse_counters h with ⟨hleft, _⟩ | hhalf
  · simp [hleft, h0]
  · rw [hhalf, half_cnt_toNat]
    omega

/-- While the deck plays, the phase is pulse-high exactly where `Read` is 1 and the end of the tape is not reached
(10_state.md R31). -/
theorem phase_pulseHigh_iff {s : State} (hp : s.Playing) :
    s.phase = some .pulseHigh ↔ ¬ s.AtEndOfTape ∧ s.readO = true := by
  obtain ⟨hm, hmo⟩ := hp
  by_cases he : s.AtEndOfTape
  · have hphase : s.phase = some .endOfTape := by simp only [State.phase, hm, hmo, if_pos he]; rfl
    exact iff_of_false (by simp [hphase]) fun h => h.1 he
  · have hphase : s.phase = if s.readO then some .pulseHigh else some .pulseLow := by
      simp only [State.phase, hm, hmo, if_neg he]; rfl
    cases hr : s.readO <;> simp [hphase, hr, he]

/-- The transition detector on a counter that has not elapsed (10_state.md R31, 41_pulse_player.md R97). -/
theorem readLevel_iff_of_pos {left halfway : Cnt} (h : 1 ≤ left.toNat) :
    readLevel left halfway = true ↔ 1 ≤ left.toNat ∧ left.toNat < halfway.toNat := by
  rw [readLevel, decide_eq_true_eq, BitVec.lt_def, and_iff_right h]

/-- While the deck plays, `Read` after UPDATE is the high part of the pulse: inside a pulse it is the transition
detector, and an UPDATE that fetches turns it off (10_state.md R31). -/
theorem execUpdate_readO {s : State} (hp : s.Playing) :
    ∃ t, execUpdate s = .next t ∧ t.Playing ∧ (t.readO = true ↔
      1 ≤ t.cyclesLeft.toNat ∧ t.cyclesLeft.toNat < t.halfwayCycles.toNat) := by
  by_cases hc : 2 ≤ s.cyclesLeft.toNat
  · obtain ⟨r, hu⟩ := execUpdate_inProgress hp hc
    have hleft : 1 ≤ (countdown s.cyclesLeft).toNat := by rw [countdown_of_pos (by omega)]; omega
    exact ⟨_, hu, hp, by simpa [State.readO] using readLevel_iff_of_pos hleft⟩
  · obtain ⟨p, l, h, k, hf, hu⟩ := execUpdate_elapsed hp.1 hp.2 (by omega)
    have hlow := fetchPulse_not_belowHalfway rfl hf
    have hoff : readBit (0b01 : Sig) ≠ true := by decide
    exact ⟨_, hu, hp, iff_of_false hoff hlow⟩

/-- Settles O41: `Read = 1` says that the counter is not 0, and so excludes the end of the tape, the one other name
that the phase could have. -/
theorem readIsHighExactlyBelowHalfway : Obligations.ReadIsHighExactlyBelowHalfway := by
  intro s hm hmo
  obtain ⟨t, hu, hplaying, hbelow⟩ := execUpdate_readO ⟨hm, hmo⟩
  refine ⟨t, hu, hbelow, (phase_pulseHigh_iff hplaying).trans (and_iff_right_of_imp ?_)⟩
  rintro hr ⟨hleft, _⟩
  have hpos : 1 ≤ t.cyclesLeft.toNat := (hbelow.mp hr).1
  simp [hleft] at hpos

end Sys2Proof.Machine
end

section
/-!
SUPPORT. Which registers an operation writes (10_state.md R34), and that none reads the result outputs or the host's
Write flag (10_state.md R27, R28).
-/

namespace Sys2Proof.Machine

/-- Settles O47, one command at a time: LOAD and UPDATE by what each can touch, the others by their one write. -/
theorem operationsWriteOnlyTheirRegisters : Obligations.OperationsWriteOnlyTheirRegisters := by
  intro i s hi
  cases i with
  | load =>
    obtain ⟨m, l, f, v, r, h⟩ := execLoad_next s
    exact ⟨_, h, by simp [State.cursor]⟩
  | update =>
    obtain ⟨p, l, h, k, g, r, hu⟩ := execUpdate_next s
    exact ⟨_, hu, by simp [State.tapeImage]⟩
  | save => exact ⟨_, rfl, by simp [State.tapeImage, State.cursor]⟩
  | reset => exact ⟨_, rfl, by simp [State.tapeImage]⟩
  | setbtn m => exact ⟨_, rfl, by simp [State.tapeImage, State.cursor]⟩
  | signals m w => exact ⟨_, rfl, by simp [State.tapeImage, State.cursor]⟩
  | pulseShort | escV1 | escFixed => cases hi

/-! ## The host's signals and the result outputs are not read by the tape's operations

Each lemma runs an operation on the state with another `sigIn` and another `result`, and finds what it answers on the
state itself with the same two fields replaced. -/

theorem memRead_hostSide {i : Nat} {s t : State} {b : Byte} (g : Sig) (r : Result)
    (h : memRead i s = .next (b, t)) :
    memRead i ((s.setSigIn g).deliver r) = .next (b, (t.setSigIn g).deliver r) := by
  rcases Nat.lt_or_ge i s.tapeLength.toNat with hl | hl
  · rw [memRead, if_neg (Nat.not_le.mpr hl)] at h
    rw [memRead]
    refine (if_neg (Nat.not_le.mpr hl)).trans ?_
    split at h
    · next hf =>
      refine (if_pos hf).trans ?_
      rw [State.deliver_tapeData, State.setSigIn_tapeData]
      split at h <;> cases h <;> rfl
    · next hf => cases h; exact if_neg hf
  · rw [memRead_past hl] at h; cases h

theorem memReadRun_hostSide {n : Nat} (g : Sig) (r : Result) : ∀ {i : Nat} {s t : State} {bs : List Byte},
    memReadRun i n s = .next (bs, t) →
    memReadRun i n ((s.setSigIn g).deliver r) = .next (bs, (t.setSigIn g).deliver r) := by
  induction n with
  | zero => intro i s t bs h; cases h; rfl
  | succ n ih =>
    intro i s t bs h
    rw [memReadRun] at h ⊢
    obtain ⟨⟨b, u⟩, hb, hrun⟩ := andThen_eq_next.mp h
    obtain ⟨⟨cs, v⟩, hcs, hlast⟩ := andThen_eq_next.mp hrun
    cases hlast
    simp only [memRead_hostSide g r hb, ih hcs, andThen_next]

theorem fetchSymbol_hostSide {s t : State} {y? : Option Symbol} (g : Sig) (r : Result)
    (h : fetchSymbol s = .next (y?, t)) :
    fetchSymbol ((s.setSigIn g).deliver r) = .next (y?, (t.setSigIn g).deliver r) := by
  rw [fetchSymbol] at h ⊢
  obtain ⟨⟨b, u⟩, hb, hrest⟩ := andThen_eq_next.mp h
  refine andThen_eq_next.mpr ⟨_, memRead_hostSide g r hb, ?_⟩
  split at hrest
  · next hlen => cases hrest; exact if_pos hlen
  · next hlen =>
    obtain ⟨⟨bs, v⟩, hbs, hlast⟩ := andThen_eq_next.mp hrest
    cases hlast
    exact (if_neg hlen).trans (andThen_eq_next.mpr ⟨_, memReadRun_hostSide g r hbs, rfl⟩)

theorem fetchPulse_hostSide {s t : State} (g : Sig) (r : Result) (h : fetchPulse s = .next t) :
    fetchPulse ((s.setSigIn g).deliver r) = .next ((t.setSigIn g).deliver r) := by
  rw [fetchPulse] at h ⊢
  split at h
  · next he => cases h; exact if_pos he
  · next he =>
    obtain ⟨⟨y?, u⟩, hy, hrun⟩ := andThen_eq_next.mp h
    refine (if_neg he).trans (andThen_eq_next.mpr ⟨_, fetchSymbol_hostSide g r hy, ?_⟩)
    cases y? with
    | none => cases hrun; rfl
    | some y => cases y <;> cases hrun <;> rfl

theorem playMotor_hostSide {s t : State} (g : Sig) (r : Result) (h : playMotor s = .next t) :
    playMotor ((s.setSigIn g).deliver r) = .next ((t.setSigIn g).deliver r) := by
  rw [playMotor] at h ⊢
  split at h
  · next hc => exact (if_pos hc).trans (fetchPulse_hostSide g r h)
  · next hc => cases h; exact if_neg hc

/-- The play handler reads the Motor flag and no other part of the host's side (41_pulse_player.md R95). -/
theorem playCycle_hostSide {s t : State} {g : Sig} (r : Result) (hm : motorBit g = s.motor)
    (h : playCycle s = .next t) :
    playCycle ((s.setSigIn g).deliver r) = .next ((t.setSigIn g).deliver r) := by
  have hmotor : ((s.setSigIn g).deliver r).motor = s.motor := hm
  rw [playCycle] at h ⊢
  rw [hmotor]
  split at h
  · next hon => exact (if_pos hon).trans (playMotor_hostSide g r h)
  · next hoff => cases h; exact if_neg hoff

theorem deliverUpdate_hostSide (s : State) (h : HandlerStatus) (g : Sig) (r : Result) :
    ((s.setSigIn g).deliver r).deliverUpdate h = (s.deliverUpdate h).setSigIn g := rfl

/-- UPDATE reads the Motor flag and no other part of the host's side, and replaces the result. -/
theorem execUpdate_hostSide {s t : State} {g : Sig} (r : Result) (hm : motorBit g = s.motor)
    (h : execUpdate s = .next t) :
    execUpdate ((s.setSigIn g).deliver r) = .next (t.setSigIn g) := by
  have hmotor : ((s.setSigIn g).deliver r).motor = s.motor := hm
  cases hmode : s.mode with
  | play =>
    simp only [execUpdate, hmode] at h
    obtain ⟨u, hu, hlast⟩ := andThen_eq_next.mp h
    cases hlast
    have hplay : ((s.setSigIn g).deliver r).mode = .play := hmode
    rw [execUpdate_play hplay (playCycle_hostSide r hm hu), deliverUpdate_hostSide]
  | record =>
    simp only [execUpdate, recordStatus, hmode] at h
    cases h
    simp only [execUpdate, recordStatus, State.deliver_mode, State.setSigIn_mode, hmode, hmotor]
    rfl
  | done | none | stop | pause =>
    simp only [execUpdate, hmode] at h
    cases h
    simp only [execUpdate, State.deliver_mode, State.setSigIn_mode, hmode]
    rfl

theorem truncatedTape_hostSide (bytes : List Byte) (len : Pos) (s : State) (g : Sig) (r : Result) :
    truncatedTape bytes len ((s.setSigIn g).deliver r) = ((truncatedTape bytes len s).setSigIn g).deliver r := by
  cases hp : s.cfg.truncPolicy <;>
    simp only [truncatedTape, State.deliver_cfg, State.setSigIn_cfg, hp] <;> rfl

/-- LOAD's payload step reads neither the host's signals nor the result it replaces. -/
theorem loadPayload_hostSide (len : Pos) (stream : List Byte) (s : State) (g : Sig) (r : Result) :
    loadPayload len stream ((s.setSigIn g).deliver r) = (loadPayload len stream s).setSigIn g := by
  rcases Nat.lt_or_ge stream.length len.toNat with h | h
  · rw [loadPayload_truncated _ h, loadPayload_truncated _ h, truncatedTape_hostSide]; rfl
  · rw [loadPayload_whole _ h, loadPayload_whole _ h]; rfl

/-- LOAD's length step reads neither the host's signals nor the result it replaces. -/
theorem loadLength_hostSide (stream : List Byte) (s : State) (g : Sig) (r : Result) :
    loadLength stream ((s.setSigIn g).deliver r) = (loadLength stream s).setSigIn g := by
  by_cases hshort : (streamRead 4 stream).short = true
  · simp only [loadLength, if_pos hshort]; rfl
  · by_cases hcap : s.cfg.tapeCapacity < littleEndian (streamRead 4 stream).bytes
    · simp only [loadLength, if_neg hshort]
      rw [if_pos hcap]
      exact if_pos hcap
    · simp only [loadLength, if_neg hshort]
      rw [if_neg hcap, ← loadPayload_hostSide (r := r)]
      exact if_neg hcap

/-- LOAD of an opened source reads neither the host's signals nor the result it replaces. -/
theorem loadStream_hostSide (stream : List Byte) (s : State) (g : Sig) (r : Result) :
    loadStream stream ((s.setSigIn g).deliver r) = (loadStream stream s).setSigIn g := by
  simp only [loadStream]
  split
  · rfl
  · split
    · simp only [loadVersion]
      split
      · next v _ _ =>
        simp only [loadReserved]
        split
        · rfl
        · exact loadLength_hostSide _ (s.setVersion v) g r
      · rfl
    · rfl

theorem execLoad_hostSide {s t : State} (g : Sig) (r : Result) (h : execLoad s = .next t) :
    execLoad ((s.setSigIn g).deliver r) = .next (t.setSigIn g) := by
  cases hsrc : s.src <;>
    simp only [execLoad, hsrc] at h <;>
    simp only [execLoad, State.deliver_src, State.setSigIn_src, hsrc] <;> cases h
  · rfl
  · rw [loadStream_hostSide]

/-- Beside SIGNALS, which writes them, no command reads more of the host's signals than the Motor flag, and none reads
the result outputs (10_state.md R27, R28). -/
theorem exec_hostSide {i : Instr} {s t : State} {g : Sig} (r : Result) (hi : i.isCommand = true)
    (hsig : ∀ m w, i ≠ .signals m w) (hm : motorBit g = s.motor) (h : exec i s = .next t) :
    exec i ((s.setSigIn g).deliver r) = .next (t.setSigIn g) := by
  cases i with
  | load => exact execLoad_hostSide g r h
  | update => exact execUpdate_hostSide r hm h
  | save | reset | setbtn => cases h; rfl
  | signals m w => exact absurd rfl (hsig m w)
  | pulseShort | escV1 | escFixed => cases hi

/-- Settles O49: with the host's signals as they are, a command answers the same whatever the last result was; SIGNALS
replaces the result itself. -/
theorem resultsAreNeverRead : Obligations.ResultsAreNeverRead := by
  intro i s r hi
  by_cases hsig : ∃ m w, i = .signals m w
  · obtain ⟨m, w, rfl⟩ := hsig
    rfl
  · have hne : ∀ m w, i ≠ .signals m w := fun m w h => hsig ⟨m, w, h⟩
    obtain ⟨t, ht, _, _, _, _, hsigIn, _⟩ := operationsWriteOnlyTheirRegisters i s hi
    have hkept : t.setSigIn s.sigIn = t := by rw [← hsigIn hne]; rfl
    calc exec i { s with result := r } = .next (t.setSigIn s.sigIn) := exec_hostSide r hi hne rfl ht
      _ = exec i s := by rw [hkept, ht]

/-- The Write flag is not the Motor flag (30_encoding.md R63). -/
theorem motorBit_xor_write (g : Sig) : motorBit (g ^^^ 0b01) = motorBit g := by
  simp [motorBit]

/-- Settles O50: flipping the Write flag leaves the Motor flag, the one part of the host's signals that is read. -/
theorem writeFlagIsNeverRead : Obligations.WriteFlagIsNeverRead := by
  intro i s hi hsig
  obtain ⟨t, ht, _⟩ := operationsWriteOnlyTheirRegisters i s hi
  exact ⟨t, ht, exec_hostSide s.result hi hsig (motorBit_xor_write s.sigIn) ht⟩

end Sys2Proof.Machine
end

section
/-!
SUPPORT. The payload buffer as reads see it: what one read and a run of reads answer, what LOAD leaves in it, and what
keeps it (20_memory.md R36, R39, R44).
-/

namespace Sys2Proof.Machine

/-! ## The payload read -/

/-- Settles O37: one clause for each outcome of the payload read. -/
theorem payloadReadHasThreeOutcomes : Obligations.PayloadReadHasThreeOutcomes := by
  intro s i
  exact ⟨memRead_past, fun _ ⟨hl, hf, hb⟩ => memRead_filled hl hf hb, fun hf hl => memRead_unfilled hl hf⟩

/-- A written byte followed by a run of reads: the run is one byte longer. -/
theorem memReadRun_succ_of_holds {s t : State} {i n : Nat} {b : Byte} {bs : List Byte} (hb : s.Holds i b)
    (h : memReadRun (i + 1) n s = .next (bs, t)) : memReadRun i (n + 1) s = .next (b :: bs, t) := by
  obtain ⟨hl, hf, hread⟩ := hb
  simp only [memReadRun, memRead_filled hl hf hread, h, andThen_next]

/-- Reads of bytes that LOAD did not write are draws, in the order of the reads. -/
theorem memReadRun_unfilled {n : Nat} : ∀ {s : State} {i : Nat}, i + n ≤ s.tapeLength.toNat →
    s.tapeFilled.toNat ≤ i →
    memReadRun i n s = .next ((List.range n).map fun k => Config.drawByte (s.draws + k),
      { s with draws := s.draws + n }) := by
  induction n with
  | zero => intro s i _ _; rfl
  | succ n ih =>
    intro s i hl hf
    have hrest := ih (s := s.draw.2) (i := i + 1) (by simp; omega) (by simp; omega)
    have hshift : ∀ k, s.draws + 1 + k = s.draws + (k + 1) := by omega
    simp only [State.draw_draws, hshift] at hrest
    rw [memReadRun, memRead_unfilled (by omega) hf, andThen_next, hrest, List.range_succ_eq_map]
    simp [State.draw]

/-! ## What LOAD leaves in the buffer, and what keeps it -/

/-- The declared length of four bytes, least significant first (20_memory.md R40). -/
theorem littleEndian_four (l0 l1 l2 l3 : Byte) :
    littleEndian [l0, l1, l2, l3] = l0.toNat + l1.toNat * 2 ^ 8 + l2.toNat * 2 ^ 16 + l3.toNat * 2 ^ 24 := by
  simp only [littleEndian]
  omega

/-- LOAD of a container whose payload is all there, within the capacity, leaves the declared part of the payload in the
buffer (40_container_parser.md R84). -/
theorem execLoad_whole {s : State} {v r0 r1 r2 l0 l1 l2 l3 : Byte} {P : List Byte} {len : Pos}
    (hsrc : s.src = .stream (magic ++ v :: r0 :: r1 :: r2 :: l0 :: l1 :: l2 :: l3 :: P))
    (hlen : littleEndian [l0, l1, l2, l3] = len.toNat) (hcap : len.toNat ≤ s.cfg.tapeCapacity)
    (hP : len.toNat ≤ P.length) :
    execLoad s = .next (loadDone .none ((s.setVersion v).setTape (P.take len.toNat) len len)) := by
  have hfits : ¬ s.cfg.tapeCapacity < len.toNat := Nat.not_lt.mpr hcap
  simp only [execLoad, hsrc, loadStream_header, hlen, if_neg hfits, BitVec.ofNat_toNat, BitVec.setWidth_eq,
    loadPayload_whole _ hP]

/-- Settles O14: every index of the tape LOAD leaves is written, with the container's byte. -/
theorem loadedPayloadReadsBack : Obligations.LoadedPayloadReadsBack := by
  intro s v r0 r1 r2 l0 l1 l2 l3 P len hsrc hlen hcap hP
  have hle : littleEndian [l0, l1, l2, l3] = len := (littleEndian_four l0 l1 l2 l3).trans hlen.symm
  have hlt : len < 2 ^ 32 := hle ▸ (littleEndian_lt [l0, l1, l2, l3]).trans_eq (by norm_num)
  obtain ⟨pos, rfl⟩ : ∃ pos : Pos, pos.toNat = len := ⟨BitVec.ofNat 32 len, Nat.mod_eq_of_lt hlt⟩
  refine ⟨_, execLoad_whole hsrc hle hcap hP, fun i b hi hb => ?_, fun i hi => memRead_past hi⟩
  have hread : (Memory.ofBytes (P.take pos.toNat)).read i = some b := by
    rw [Memory.read_ofBytes, List.getElem?_take_of_lt hi, hb]
  exact memRead_filled hi hi hread

/-- Every instruction but LOAD completes and leaves the buffer as it stands (20_memory.md R36). -/
theorem exec_tapeData {i : Instr} (s : State) (hi : i ≠ .load) :
    ∃ t, exec i s = .next t ∧ t.tapeData = s.tapeData := by
  cases i with
  | load => exact absurd rfl hi
  | update =>
    obtain ⟨p, l, h, k, g, r, hu⟩ := execUpdate_next s
    exact ⟨_, hu, rfl⟩
  | save | reset | setbtn | signals | pulseShort | escV1 | escFixed => exact ⟨_, rfl, rfl⟩

/-- Settles O48: the buffer as a whole is kept, so each of its indices reads the same. -/
theorem onlyLoadChangesTheBuffer : Obligations.OnlyLoadChangesTheBuffer := by
  intro i s hi
  obtain ⟨t, ht, hdata⟩ := exec_tapeData s hi
  exact ⟨t, ht, fun a => by rw [hdata]⟩

end Sys2Proof.Machine
end

section
/-!
SUPPORT. UPDATE on an elapsed pulse, by what the reads at the cursor answer (20_memory.md R39, R41,
41_pulse_player.md R99 to R102).
-/

namespace Sys2Proof.Machine

/-! ## The symbol at the cursor, by its first byte -/

/-- As many reads as the first byte asks for, and inside the payload: the fetch decodes the bytes they answer
(30_encoding.md R74). -/
theorem fetchSymbol_of_reads {s t u : State} {b : Byte} {bs : List Byte} {n : Nat}
    (hlen : symbolLength s.tapVersion b = n + 1) (hle : s.tapePos.toNat + (n + 1) ≤ s.tapeLength.toNat)
    (hb : memRead s.tapePos.toNat s = .next (b, t))
    (hrun : memReadRun (s.tapePos.toNat + 1) n t = .next (bs, u)) :
    fetchSymbol s = .next ((decodeSymbol s.tapVersion (b :: bs)).map Prod.fst, u) := by
  simp only [fetchSymbol, hb, andThen_next, hlen, if_neg (Nat.not_lt.mpr hle), Nat.add_sub_cancel, hrun]

theorem fetchSymbol_short {s t : State} {b : Byte} (hlt : s.tapePos.toNat < s.tapeLength.toNat)
    (hb : memRead s.tapePos.toNat s = .next (b, t)) (h0 : b ≠ 0) :
    fetchSymbol s = .next (some (.short b), t) := by
  have hlen : symbolLength s.tapVersion b = 1 := if_neg h0
  rw [fetchSymbol_of_reads hlen hlt hb rfl, decodeSymbol_short [] h0]
  rfl

theorem fetchSymbol_escFixed {s t : State} (hlt : s.tapePos.toNat < s.tapeLength.toNat)
    (hb : memRead s.tapePos.toNat s = .next (0, t)) (hv : s.tapVersion ≠ 1) :
    fetchSymbol s = .next (some .escFixed, t) := by
  have hlen : symbolLength s.tapVersion 0 = 1 := (if_pos rfl).trans (if_neg hv)
  rw [fetchSymbol_of_reads hlen hlt hb rfl, decodeSymbol_escFixed [] hv]
  rfl

theorem fetchSymbol_escV1 {s t u : State} {b0 b1 b2 : Byte} (hv : s.tapVersion = 1)
    (hle : s.tapePos.toNat + 4 ≤ s.tapeLength.toNat) (hb : memRead s.tapePos.toNat s = .next (0, t))
    (hrun : memReadRun (s.tapePos.toNat + 1) 3 t = .next ([b0, b1, b2], u)) :
    fetchSymbol s = .next (some (.escV1 b0 b1 b2), u) := by
  have hlen : symbolLength s.tapVersion 0 = 4 := (if_pos rfl).trans (if_pos hv)
  rw [fetchSymbol_of_reads hlen hle hb hrun, hv, decodeSymbol_escV1]
  rfl

theorem fetchSymbol_truncated {s t : State} (hv : s.tapVersion = 1)
    (hlt : s.tapeLength.toNat < s.tapePos.toNat + 4) (hb : memRead s.tapePos.toNat s = .next (0, t)) :
    fetchSymbol s = .next (none, t) := by
  have hlen : symbolLength s.tapVersion 0 = 4 := (if_pos rfl).trans (if_pos hv)
  simp only [fetchSymbol, hb, andThen_next, hlen, if_pos hlt]

/-! ## Pulse lengths and their halves (41_pulse_player.md R101) -/

/-- Halving a 24-bit number is halving the natural it stands for. -/
theorem ofNat_half {n : Nat} (hn : n < 2 ^ 24) : (BitVec.ofNat 24 n : Cnt) / 2 = BitVec.ofNat 24 (n / 2) := by
  apply BitVec.eq_of_toNat_eq
  rw [half_cnt_toNat, BitVec.toNat_ofNat, BitVec.toNat_ofNat, Nat.mod_eq_of_lt hn, Nat.mod_eq_of_lt (by omega)]

theorem shortPulseLength_half (b : Byte) : shortPulseLength b / 2 = BitVec.ofNat 24 (4 * b.toNat) := by
  have hb := b.isLt
  rw [shortPulseLength, ofNat_half (by omega), show 8 * b.toNat / 2 = 4 * b.toNat by omega]

/-- The count of three bytes, least significant first (20_memory.md R41). -/
theorem littleEndian_three (b0 b1 b2 : Byte) :
    littleEndian [b0, b1, b2] = b0.toNat + b1.toNat * 256 + b2.toNat * 65536 := by
  simp only [littleEndian]
  omega

theorem escapePulseLength_eq (b0 b1 b2 : Byte) :
    escapePulseLength b0 b1 b2 = BitVec.ofNat 24 (b0.toNat + b1.toNat * 256 + b2.toNat * 65536) := by
  rw [escapePulseLength, littleEndian_three]

theorem escapePulseLength_half (b0 b1 b2 : Byte) :
    escapePulseLength b0 b1 b2 / 2 =
      BitVec.ofNat 24 ((b0.toNat + b1.toNat * 256 + b2.toNat * 65536) / 2) := by
  have h0 := b0.isLt
  have h1 := b1.isLt
  have h2 := b2.isLt
  rw [escapePulseLength_eq, ofNat_half (by omega)]

/-! ## UPDATE on an elapsed pulse -/

/-- The state on which an UPDATE that finds its pulse elapsed runs the fetch: `Sense = 1, Read = 0` and the countdown
at zero (41_pulse_player.md R95, R96, R99). -/
abbrev State.fetching (s : State) : State := { s with cyclesLeft := 0, sigOut := 0b01 }

/-- What that UPDATE leaves where its fetch leaves the cursor `(p, l, h)` and the draw counter `k`. -/
abbrev State.fetched (s : State) (p : Pos) (l h : Cnt) (k : Nat) : State :=
  { s with
    tapePos := p, cyclesLeft := l, halfwayCycles := h, sigOut := 0b01, draws := k
    result := .update (.pos p) .running }

section Elapsed

variable {s : State} {k : Nat} (hp : s.Playing) (hc : s.cyclesLeft.toNat ≤ 1)
  (hlt : s.tapePos.toNat < s.tapeLength.toNat)
include hp hc hlt

/-- The fetch decides the cursor and the draw counter; the rest is the same for every UPDATE that fetches inside the
payload (41_pulse_player.md R99, R104). -/
theorem execUpdate_of_fetchPulse {p : Pos} {l h : Cnt}
    (hf : fetchPulse s.fetching = .next (({ s.fetching with draws := k } : State).setCursor p l h)) :
    execUpdate s = .next (s.fetched p l h k) := by
  obtain ⟨hm, hmo⟩ := hp
  obtain ⟨p', l', h', k', hf', hu⟩ := execUpdate_elapsed hm hmo hc
  have hlen : s.tapeLength ≠ 0 := by rintro h0; simp [h0] at hlt
  have hsame := Host.Outcome.next.inj (hf'.symm.trans hf)
  simp only [State.setCursor, State.mk.injEq, true_and, and_true] at hsame
  obtain ⟨rfl, rfl, rfl, rfl⟩ := hsame
  rw [hu, if_neg hlen]

/-- A symbol at the cursor: the cursor passes it and the counter takes its pulse (41_pulse_player.md R100, R101). -/
theorem execUpdate_of_symbol {y : Symbol} {l : Cnt} {size : Pos}
    (hy : fetchSymbol s.fetching = .next (some y, { s.fetching with draws := k }))
    (hrun : ∀ t, runSymbol y t = .next (t.loadPulse l size)) :
    execUpdate s = .next (s.fetched (s.tapePos + size) l (l / 2) k) := by
  refine execUpdate_of_fetchPulse hp hc hlt ?_
  have hdata : s.fetching.endOfData = false := by simpa using hlt
  simp only [fetchPulse, hdata, hy, hrun, andThen_next]
  rfl

/-- A truncated escape at the cursor: no pulse, and the cursor to the end of the payload
(41_pulse_player.md R102). -/
theorem execUpdate_of_truncated
    (hy : fetchSymbol s.fetching = .next (none, { s.fetching with draws := k })) :
    execUpdate s = .next (s.fetched s.tapeLength 0 s.halfwayCycles k) := by
  refine execUpdate_of_fetchPulse hp hc hlt ?_
  have hdata : s.fetching.endOfData = false := by simpa using hlt
  simp only [fetchPulse, hdata, hy, andThen_next]
  rfl

/-! ### Each symbol in turn -/

/-- A short pulse lasts eight times its byte, with the halfway point at half of that (30_encoding.md R71). -/
theorem execUpdate_short {b : Byte} (h0 : b ≠ 0)
    (hb : memRead s.tapePos.toNat s.fetching = .next (b, { s.fetching with draws := k })) :
    execUpdate s = .next (s.fetched (s.tapePos + 1) (BitVec.ofNat 24 (8 * b.toNat))
      (BitVec.ofNat 24 (4 * b.toNat)) k) := by
  rw [execUpdate_of_symbol hp hc hlt (fetchSymbol_short (s := s.fetching) hlt hb h0) fun _ => rfl,
    shortPulseLength_half]
  rfl

/-- The escape of another version than 1 lasts 65535 cycles (30_encoding.md R73). -/
theorem execUpdate_escFixed (hv : s.tapVersion ≠ 1)
    (hb : memRead s.tapePos.toNat s.fetching = .next (0, { s.fetching with draws := k })) :
    execUpdate s = .next (s.fetched (s.tapePos + 1) 65535 32767 k) :=
  execUpdate_of_symbol hp hc hlt (fetchSymbol_escFixed (s := s.fetching) hlt hb hv) fun _ => rfl

/-- A version-1 escape that fits lasts the 24-bit little-endian count of the three bytes read after it, wherever the
reads find them (30_encoding.md R72, 20_memory.md R41). -/
theorem execUpdate_escV1 {b0 b1 b2 : Byte} {j : Nat} (hv : s.tapVersion = 1)
    (hle : s.tapePos.toNat + 4 ≤ s.tapeLength.toNat)
    (hb : memRead s.tapePos.toNat s.fetching = .next (0, { s.fetching with draws := j }))
    (hrun : memReadRun (s.tapePos.toNat + 1) 3 { s.fetching with draws := j } =
      .next ([b0, b1, b2], { s.fetching with draws := k })) :
    execUpdate s = .next (s.fetched (s.tapePos + 4)
      (BitVec.ofNat 24 (b0.toNat + b1.toNat * 256 + b2.toNat * 65536))
      (BitVec.ofNat 24 ((b0.toNat + b1.toNat * 256 + b2.toNat * 65536) / 2)) k) := by
  rw [execUpdate_of_symbol hp hc hlt (fetchSymbol_escV1 (s := s.fetching) hv hle hb hrun) fun _ => rfl,
    escapePulseLength_half, escapePulseLength_eq]

end Elapsed

/-! ## Fetches of written and of drawn bytes -/

/-- Settles O32: the three bytes after the written escape are read one by one, and none is drawn. -/
theorem updateFetchesAVersionOneEscape : Obligations.UpdateFetchesAVersionOneEscape := by
  rintro s b0 b1 b2 hm hmo hc hv ⟨hlt, hf, hread⟩ h0 h1 h2
  have hesc : memRead s.tapePos.toNat s.fetching = .next (0, s.fetching) := memRead_filled hlt hf hread
  have hrun : memReadRun (s.tapePos.toNat + 1) 3 s.fetching = .next ([b0, b1, b2], s.fetching) :=
    memReadRun_succ_of_holds h0 (memReadRun_succ_of_holds h1 (memReadRun_succ_of_holds h2 rfl))
  exact execUpdate_escV1 ⟨hm, hmo⟩ hc hlt hv h2.1 hesc hrun

/-- Settles O58: of the three reads after the written escape, those below `tapeFilled` answer the buffer's bytes and
the rest are draws. -/
theorem updateFetchesAStraddlingVersionOneEscape :
    Obligations.UpdateFetchesAStraddlingVersionOneEscape := by
  rintro s hm hmo hc hv ⟨hlt, hf, hread⟩ hle d fetched
  have hesc : memRead s.tapePos.toNat s.fetching = .next (0, s.fetching) := memRead_filled hlt hf hread
  refine ⟨fun hfill => ?_, fun b0 hfill h0 => ?_, fun b0 b1 hfill h0 h1 => ?_⟩
  · have hrun := memReadRun_unfilled (n := 3) (s := s.fetching) hle hfill.le
    exact execUpdate_escV1 ⟨hm, hmo⟩ hc hlt hv hle hesc hrun
  · have hrun := memReadRun_succ_of_holds (s := s.fetching) h0
      (memReadRun_unfilled (n := 2) hle hfill.le)
    exact execUpdate_escV1 ⟨hm, hmo⟩ hc hlt hv hle hesc hrun
  · have hrun := memReadRun_succ_of_holds (s := s.fetching) h0
      (memReadRun_succ_of_holds h1 (memReadRun_unfilled (n := 1) hle hfill.le))
    exact execUpdate_escV1 ⟨hm, hmo⟩ hc hlt hv hle hesc hrun

/-- Settles O35: the drawn byte is the escape, which stands alone in this version, or a short pulse. -/
theorem updateFetchesADrawnByte : Obligations.UpdateFetchesADrawnByte := by
  intro s hm hmo hc hv hf hlt
  have hd : memRead s.tapePos.toNat s.fetching = .next s.fetching.draw := memRead_unfilled hlt hf
  refine ⟨_, rfl, ?_⟩
  by_cases h0 : Config.drawByte s.draws = 0
  · rw [State.draw, h0] at hd
    simp only [if_pos h0]
    exact execUpdate_escFixed ⟨hm, hmo⟩ hc hlt hv hd
  · simp only [if_neg h0]
    exact execUpdate_short ⟨hm, hmo⟩ hc hlt h0 hd

/-- Settles O36: the drawn byte is a short pulse, an escape without room for its count, or an escape whose three
bytes are drawn too. -/
theorem updateFetchesADrawnVersionOneSymbol : Obligations.UpdateFetchesADrawnVersionOneSymbol := by
  intro s hm hmo hc hv hf hlt
  have hd : memRead s.tapePos.toNat s.fetching = .next s.fetching.draw := memRead_unfilled hlt hf
  refine ⟨_, _, _, _, rfl, rfl, rfl, rfl, ?_⟩
  split
  · next h0 => exact execUpdate_short ⟨hm, hmo⟩ hc hlt h0 hd
  · next h0 =>
    rw [State.draw, not_not.mp h0] at hd
    split
    · next hshort =>
      exact execUpdate_of_truncated ⟨hm, hmo⟩ hc hlt (fetchSymbol_truncated (s := s.fetching) hv hshort hd)
    · next hroom =>
      have hle : s.tapePos.toNat + 4 ≤ s.tapeLength.toNat := Nat.not_lt.mp hroom
      have hrun := memReadRun_unfilled (n := 3) (s := s.fetching.draw.2) hle (Nat.le_succ_of_le hf)
      exact execUpdate_escV1 ⟨hm, hmo⟩ hc hlt hv hle hd hrun

end Sys2Proof.Machine
end

section
/-!
SUPPORT. The command words: what each field decoder answers, and that the command decoder and the encoder are each
other's inverse (30_encoding.md R54 to R59).
-/

namespace Sys2Proof.Machine

/-! ## The two fields of a word (30_encoding.md R54) -/

@[simp] theorem opField_commandWord (op arg : BitVec 4) : opField (commandWord op arg) = op :=
  BitVec.extractLsb'_append_eq_left

@[simp] theorem argField_commandWord (op arg : BitVec 4) : argField (commandWord op arg) = arg :=
  BitVec.extractLsb'_append_eq_right

theorem commandWord_fields (w : Byte) : commandWord (opField w) (argField w) = w :=
  (BitVec.extractLsb'_append_extractLsb'_eq_extractLsb' rfl).trans BitVec.extractLsb'_eq_self

/-- The opcodes no row of the table has are the ones R59 names. -/
theorem reservedOpcode_iff {op : BitVec 4} :
    (op = 0 ∨ 7 ≤ op) ↔ op ≠ 1 ∧ op ≠ 2 ∧ op ≠ 3 ∧ op ≠ 4 ∧ op ≠ 5 ∧ op ≠ 6 := by
  revert op; decide

/-! ## The operand decoders (30_encoding.md R55 to R58) -/

theorem modeOfCode_eq_some_iff {c : BitVec 3} {m : Mode} : modeOfCode c = some m ↔ c = modeCode m := by
  revert c; cases m <;> decide

theorem modeOfCode_eq_none_iff {c : BitVec 3} : modeOfCode c = none ↔ c = 6 ∨ c = 7 := by
  revert c; decide

theorem topBit_iff_field_ne_zero {arg : BitVec 4} : arg.getLsbD 3 = true ↔ arg.extractLsb' 3 1 ≠ 0 := by
  revert arg; decide

/-- A mode's operand is its code under a clear `arg[3]` (30_encoding.md R56). -/
theorem eq_setWidth_iff {arg : BitVec 4} {c : BitVec 3} :
    arg = c.setWidth 4 ↔ arg.extractLsb' 3 1 = 0 ∧ arg.extractLsb' 0 3 = c := by
  revert arg c; decide

/-- The operand of SIGNALS is its two flags under a clear `arg[3:2]` (30_encoding.md R57). -/
theorem eq_flags_iff {arg : BitVec 4} {m w : Bool} :
    arg = (BitVec.ofBool m ++ BitVec.ofBool w).setWidth 4 ↔
      arg.extractLsb' 2 2 = 0 ∧ arg.getLsbD 1 = m ∧ arg.getLsbD 0 = w := by
  revert arg m w; decide

theorem decodeNoOperand_eq_ok_iff {i j : Instr} {arg : BitVec 4} :
    decodeNoOperand i arg = .ok j ↔ arg = 0 ∧ i = j := by
  unfold decodeNoOperand
  split <;> simp_all

theorem decodeNoOperand_eq_error_iff {i : Instr} {arg : BitVec 4} {e : CommandError} :
    decodeNoOperand i arg = .error e ↔ arg ≠ 0 ∧ .reservedOperand = e := by
  unfold decodeNoOperand
  split <;> simp_all

theorem decodeSetbtn_eq_ok_iff {arg : BitVec 4} {j : Instr} :
    decodeSetbtn arg = .ok j ↔ ∃ m, arg = (modeCode m).setWidth 4 ∧ .setbtn m = j := by
  simp only [eq_setWidth_iff, ← modeOfCode_eq_some_iff]
  unfold decodeSetbtn
  split
  · split <;> simp_all
  · simp_all

theorem decodeSetbtn_eq_error_iff {arg : BitVec 4} {e : CommandError} :
    decodeSetbtn arg = .error e ↔
      (arg.getLsbD 3 = true ∨ arg.extractLsb' 0 3 = 6 ∨ arg.extractLsb' 0 3 = 7) ∧ .reservedOperand = e := by
  rw [topBit_iff_field_ne_zero, ← modeOfCode_eq_none_iff]
  unfold decodeSetbtn
  split
  · split <;> simp_all
  · simp_all

theorem decodeSignals_eq_ok_iff {arg : BitVec 4} {j : Instr} :
    decodeSignals arg = .ok j ↔
      ∃ m w, arg = (BitVec.ofBool m ++ BitVec.ofBool w).setWidth 4 ∧ .signals m w = j := by
  simp only [eq_flags_iff]
  unfold decodeSignals
  split <;> simp_all

theorem decodeSignals_eq_error_iff {arg : BitVec 4} {e : CommandError} :
    decodeSignals arg = .error e ↔ arg.extractLsb' 2 2 ≠ 0 ∧ .reservedOperand = e := by
  unfold decodeSignals
  split <;> simp_all

/-! ## The command decoder -/

/-- What the opcode selects: a command without an operand, SETBTN, SIGNALS, or nothing (30_encoding.md R55, R59). -/
theorem decodeCommand_cases (w : Byte) :
    (∃ i : Instr, (opField w = 1 ∨ opField w = 2 ∨ opField w = 3 ∨ opField w = 5) ∧ i.isCommand = true ∧
      encode i = [commandWord (opField w) 0] ∧ decodeCommand w = decodeNoOperand i (argField w)) ∨
    (opField w = 4 ∧ decodeCommand w = decodeSetbtn (argField w)) ∨
    (opField w = 6 ∧ decodeCommand w = decodeSignals (argField w)) ∨
    ((opField w = 0 ∨ 7 ≤ opField w) ∧ decodeCommand w = .error .reservedOpcode) := by
  unfold decodeCommand
  split
  · next h => exact .inl ⟨.load, .inl h, rfl, by rw [h]; rfl, rfl⟩
  split
  · next h => exact .inl ⟨.save, .inr (.inl h), rfl, by rw [h]; rfl, rfl⟩
  split
  · next h => exact .inl ⟨.reset, .inr (.inr (.inl h)), rfl, by rw [h]; rfl, rfl⟩
  split
  · next h => exact .inr (.inl ⟨h, rfl⟩)
  split
  · next h => exact .inl ⟨.update, .inr (.inr (.inr h)), rfl, by rw [h]; rfl, rfl⟩
  split
  · next h => exact .inr (.inr (.inl ⟨h, rfl⟩))
  · next h1 h2 h3 h4 h5 h6 => exact .inr (.inr (.inr ⟨reservedOpcode_iff.mpr ⟨h1, h2, h3, h4, h5, h6⟩, rfl⟩))

/-- What decodes is a command, and its encoding is the word: no bit of the word is dropped. -/
theorem encode_of_decodeCommand {w : Byte} {i : Instr} (h : decodeCommand w = .ok i) :
    i.isCommand = true ∧ encode i = [w] := by
  rcases decodeCommand_cases w with ⟨j, _, hj, henc, hd⟩ | ⟨hop, hd⟩ | ⟨hop, hd⟩ | ⟨_, hd⟩
  all_goals rw [hd] at h
  · obtain ⟨harg, rfl⟩ := decodeNoOperand_eq_ok_iff.mp h
    exact ⟨hj, by rw [henc, ← harg, commandWord_fields]⟩
  · obtain ⟨m, harg, rfl⟩ := decodeSetbtn_eq_ok_iff.mp h
    exact ⟨rfl, by rw [encode, ← harg, ← hop, commandWord_fields]⟩
  · obtain ⟨m, f, harg, rfl⟩ := decodeSignals_eq_ok_iff.mp h
    exact ⟨rfl, by rw [encode, ← harg, ← hop, commandWord_fields]⟩
  · cases h

/-- Every command encodes to one word, which decodes to it. -/
theorem decodeCommand_of_isCommand {i : Instr} (hi : i.isCommand = true) :
    ∃ w, encode i = [w] ∧ decodeCommand w = .ok i := by
  cases i with
  | load | save | reset | update => exact ⟨_, rfl, rfl⟩
  | setbtn m =>
    have hm : decodeSetbtn ((modeCode m).setWidth 4) = .ok (.setbtn m) :=
      decodeSetbtn_eq_ok_iff.mpr ⟨m, rfl, rfl⟩
    exact ⟨_, rfl, by simpa [decodeCommand] using hm⟩
  | signals m f =>
    have hf : decodeSignals ((BitVec.ofBool m ++ BitVec.ofBool f).setWidth 4) = .ok (.signals m f) :=
      decodeSignals_eq_ok_iff.mpr ⟨m, f, rfl, rfl⟩
    exact ⟨_, rfl, by simpa [decodeCommand] using hf⟩
  | pulseShort | escV1 | escFixed => cases hi

/-- The words that are refused, and why: exactly those of 30_encoding.md R58 and R59. -/
theorem decodeCommand_eq_error_iff {w : Byte} {e : CommandError} :
    decodeCommand w = .error e ↔
      ((opField w = 0 ∨ 7 ≤ opField w) ∧ .reservedOpcode = e) ∨
      ((((opField w = 1 ∨ opField w = 2 ∨ opField w = 3 ∨ opField w = 5) ∧ argField w ≠ 0) ∨
        (opField w = 4 ∧ ((argField w).getLsbD 3 = true ∨
          (argField w).extractLsb' 0 3 = 6 ∨ (argField w).extractLsb' 0 3 = 7)) ∨
        (opField w = 6 ∧ (argField w).extractLsb' 2 2 ≠ 0)) ∧ .reservedOperand = e) := by
  rcases decodeCommand_cases w with ⟨i, hop, _, _, hd⟩ | ⟨hop, hd⟩ | ⟨hop, hd⟩ | ⟨hop, hd⟩
  all_goals rw [hd]
  · rw [decodeNoOperand_eq_error_iff]
    rcases hop with h | h | h | h <;> simp [h]
  · rw [decodeSetbtn_eq_error_iff]
    simp [hop]
  · rw [decodeSignals_eq_error_iff]
    simp [hop]
  · obtain ⟨h1, h2, h3, h4, h5, h6⟩ := reservedOpcode_iff.mp hop
    simp only [hop, h1, h2, h3, h4, h5, h6, true_and, false_and, or_self, or_false,
      Except.error.injEq]

end Sys2Proof.Machine
end

section
/-!
SUPPORT. The payload symbols: the symbol decoder and the symbol encoder are each other's inverse, and where the decoder
answers nothing (30_encoding.md R71 to R74).
-/

namespace Sys2Proof.Machine

/-! ## A symbol as an instruction -/

theorem encode_symbolInstr (y : Symbol) : encode (symbolInstr y) = encodeSymbol y := by
  cases y <;> rfl

theorem wf_symbolInstr (y : Symbol) : (symbolInstr y).wf = y.wf := by
  cases y <;> rfl

theorem wf_of_isCommand {i : Instr} (hi : i.isCommand = true) : i.wf = true := by
  cases i with
  | load | save | reset | setbtn | update | signals => rfl
  | pulseShort | escV1 | escFixed => cases hi

/-- An instruction that is no command is a payload symbol. -/
theorem exists_symbolInstr_eq {i : Instr} (hi : i.isCommand = false) : ∃ y, symbolInstr y = i := by
  cases i with
  | load | save | reset | setbtn | update | signals => cases hi
  | pulseShort b => exact ⟨.short b, rfl⟩
  | escV1 b0 b1 b2 => exact ⟨.escV1 b0 b1 b2, rfl⟩
  | escFixed => exact ⟨.escFixed, rfl⟩

/-! ## The symbol decoder -/

/-- The bytes of a symbol decode to it under every version that admits it, whatever follows them. -/
theorem decodeSymbol_encodeSymbol {ver : Byte} {y : Symbol} (rest : List Byte) (hw : y.wf = true)
    (hv : y.fitsVersion ver = true) : decodeSymbol ver (encodeSymbol y ++ rest) = some (y, rest) := by
  cases y with
  | short b => exact decodeSymbol_short rest (by simpa [Symbol.wf] using hw)
  | escV1 b0 b1 b2 =>
    obtain rfl : ver = 1 := by simpa [Symbol.fitsVersion] using hv
    exact decodeSymbol_escV1 b0 b1 b2 rest
  | escFixed => exact decodeSymbol_escFixed rest (by simpa [Symbol.fitsVersion] using hv)

/-- A version-1 escape with three bytes after it decodes, and one with fewer does not. -/
theorem decodeSymbol_versionOne_escape (rest : List Byte) :
    (rest.length < 3 ∧ decodeSymbol 1 (0 :: rest) = none) ∨
      ∃ b0 b1 b2 tail, rest = b0 :: b1 :: b2 :: tail ∧
        decodeSymbol 1 (0 :: rest) = some (.escV1 b0 b1 b2, tail) := by
  match rest with
  | [] | [_] | [_, _] => exact .inl ⟨by simp, rfl⟩
  | b0 :: b1 :: b2 :: tail => exact .inr ⟨b0, b1, b2, tail, rfl, rfl⟩

/-- No byte is left, or a version-1 escape is cut short (30_encoding.md R74). -/
abbrev CutShort (ver : Byte) (bytes : List Byte) : Prop :=
  bytes = [] ∨ (ver = 1 ∧ bytes.head? = some 0 ∧ bytes.length < 4)

theorem cutShort_cons {ver b : Byte} {rest : List Byte} :
    CutShort ver (b :: rest) ↔ ver = 1 ∧ b = 0 ∧ rest.length < 3 := by
  simp only [CutShort, reduceCtorEq, false_or, List.head?_cons, Option.some.injEq, List.length_cons,
    Nat.succ_lt_succ_iff]

/-- The symbol decoder fails on bytes cut short; else the bytes are a symbol that the version admits and what follows
it. -/
theorem decodeSymbol_cases (ver : Byte) (bytes : List Byte) :
    (CutShort ver bytes ∧ decodeSymbol ver bytes = none) ∨
    (¬ CutShort ver bytes ∧ ∃ y rest, decodeSymbol ver bytes = some (y, rest) ∧ bytes = encodeSymbol y ++ rest ∧
      y.wf = true ∧ y.fitsVersion ver = true) := by
  cases bytes with
  | nil => exact .inl ⟨.inl rfl, rfl⟩
  | cons b rest =>
    rw [cutShort_cons]
    by_cases hb : b = 0
    · subst hb
      by_cases hv : ver = 1
      · subst hv
        rcases decodeSymbol_versionOne_escape rest with ⟨hlen, hd⟩ | ⟨b0, b1, b2, tail, rfl, hd⟩
        · exact .inl ⟨⟨rfl, rfl, hlen⟩, hd⟩
        · exact .inr ⟨by simp, _, _, hd, rfl, rfl, rfl⟩
      · exact .inr ⟨fun ⟨hone, _⟩ => hv hone, _, _, decodeSymbol_escFixed rest hv, rfl, rfl, by
          simpa [Symbol.fitsVersion] using hv⟩
    · exact .inr ⟨fun ⟨_, h0, _⟩ => hb h0, _, _, decodeSymbol_short rest hb, rfl,
        by simpa [Symbol.wf] using hb, rfl⟩

/-- What the symbol decoder accepts is the encoding of its answer, which is well formed and fits the version. -/
theorem encodeSymbol_of_decodeSymbol {ver : Byte} {bytes rest : List Byte} {y : Symbol}
    (h : decodeSymbol ver bytes = some (y, rest)) :
    bytes = encodeSymbol y ++ rest ∧ y.wf = true ∧ y.fitsVersion ver = true := by
  rcases decodeSymbol_cases ver bytes with ⟨_, hd⟩ | ⟨_, y', rest', hd, hy⟩
  · cases hd.symm.trans h
  · cases hd.symm.trans h
    exact hy

/-- The first byte and the version tell a symbol's length (30_encoding.md R74). -/
theorem encodeSymbol_length_of_head {ver : Byte} {y : Symbol} (hw : y.wf = true) (hv : y.fitsVersion ver = true) :
    ∃ b bs, encodeSymbol y = b :: bs ∧ (encodeSymbol y).length = if b = 0 ∧ ver = 1 then 4 else 1 := by
  cases y with
  | short b =>
    have hb : b ≠ 0 := by simpa [Symbol.wf] using hw
    exact ⟨b, [], rfl, (if_neg fun h => hb h.1).symm⟩
  | escV1 b0 b1 b2 =>
    have hone : ver = 1 := by simpa [Symbol.fitsVersion] using hv
    exact ⟨0, [b0, b1, b2], rfl, (if_pos ⟨rfl, hone⟩).symm⟩
  | escFixed =>
    have hother : ver ≠ 1 := by simpa [Symbol.fitsVersion] using hv
    exact ⟨0, [], rfl, (if_neg fun h => hother h.2).symm⟩

/-! ## The statements about the two decoders -/

/-- Settles O2: an instruction is a command, whose word the command decoder inverts, or a payload symbol, whose bytes
the symbol decoder inverts. -/
theorem decodeOfEncodeIsTheInstruction : Obligations.DecodeOfEncodeIsTheInstruction := by
  refine ⟨fun i _ hi => decodeCommand_of_isCommand hi, fun i hw hi => ?_⟩
  obtain ⟨y, rfl⟩ := exists_symbolInstr_eq hi
  rw [wf_symbolInstr] at hw
  refine ⟨y, rfl, fun ver rest hv => ?_⟩
  rw [encode_symbolInstr]
  exact decodeSymbol_encodeSymbol rest hw hv

/-- Settles O3: each decoder's answer encodes to what the decoder took, and a symbol's first byte tells its length. -/
theorem encodeOfDecodeIsTheBytes : Obligations.EncodeOfDecodeIsTheBytes := by
  refine ⟨fun w i h => ?_, fun ver bytes y rest h => ?_⟩
  · obtain ⟨hi, henc⟩ := encode_of_decodeCommand h
    exact ⟨henc, hi, wf_of_isCommand hi⟩
  · obtain ⟨rfl, hw, hv⟩ := encodeSymbol_of_decodeSymbol h
    obtain ⟨b, bs, hhead, hlen⟩ := encodeSymbol_length_of_head hw hv
    rw [encode_symbolInstr]
    exact ⟨rfl, hw, hv, b, bs ++ rest, by rw [hhead]; rfl, hlen⟩

/-- Settles O4: the decoder's two outcomes exclude each other. -/
theorem onlyTruncatedEscapesFailToDecode : Obligations.OnlyTruncatedEscapesFailToDecode := by
  intro ver bytes
  rcases decodeSymbol_cases ver bytes with ⟨hcut, hd⟩ | ⟨hwhole, y, rest, hd, _⟩
  · exact iff_of_true hd hcut
  · exact iff_of_false (by simp [hd]) hwhole

/-- Settles O1: the six command words by evaluation, the two others because they stand among the words R58 and R59
name, and each group of bytes by its one rule of the symbol decoder. -/
theorem writtenWordsDecode : Obligations.WrittenWordsDecode := by
  refine ⟨rfl, rfl, rfl, rfl, rfl, rfl, ?_, ?_, ?_, ?_, ?_⟩
  · exact decodeCommand_eq_error_iff.mpr (.inr ⟨.inr (.inl ⟨rfl, .inr (.inl rfl)⟩), rfl⟩)
  · exact decodeCommand_eq_error_iff.mpr (.inl ⟨.inr (by decide), rfl⟩)
  · exact decodeSymbol_short [0x01] (by decide)
  · exact decodeSymbol_escV1 0x10 0x20 0x30 [0x01]
  · exact decodeSymbol_escFixed [0x10] (by decide)

end Sys2Proof.Machine
end

section
/-!
SUPPORT. The step on a refused word, and on a word placed by `withFetchWord` (30_encoding.md R53, R54, R58, R59).
-/

namespace Sys2Proof.Machine

/-- A word that does not decode leaves the queue and joins the mark of the run (60_exceptions.md R130). -/
theorem step_of_decode_error {s : State} {r : Request} {rest : List Request} {e : CommandError}
    (hp : s.pending = r :: rest) (hd : decodeCommand r.cmd = .error e) : step s = .next (s.refuse r rest e) := by
  simp only [step, fetchCommand, hp, hd]

/-- Settles O6: the reserved words are the ones the command decoder refuses, and a refused word's step is its
refusal. -/
theorem stepRefusesReservedWords : Obligations.StepRefusesReservedWords := by
  intro s r rest hp op arg reservedOp reservedArg
  have hstep : ∀ e, decodeCommand r.cmd = .error e → step s = .next (s.refuse r rest e) :=
    fun _ hd => step_of_decode_error hp hd
  refine ⟨fun hop => ?_, fun harg => ?_, fun hop harg => ?_⟩
  · exact hstep _ (decodeCommand_eq_error_iff.mpr (.inl ⟨hop, rfl⟩))
  · exact hstep _ (decodeCommand_eq_error_iff.mpr (.inr ⟨harg, rfl⟩))
  · cases hd : decodeCommand r.cmd with
    | ok i => exact ⟨i, rfl⟩
    | error e =>
      rcases decodeCommand_eq_error_iff.mp hd with ⟨h, _⟩ | ⟨h, _⟩
      · exact absurd h hop
      · exact absurd h harg

theorem tableByte_toNat (w : Byte) : tableByte w.toNat 0 = w := by
  simp [tableByte]

/-- An 8-bit word that decodes to a command is placed as the host's next command (log 6, log 8). -/
theorem withFetchWord_of_decode_ok {w : Byte} {i : Instr} (s : State) (hd : decodeCommand w = .ok i) :
    s.withFetchWord 8 w.toNat = s.issueFirst w := by
  have htable : decodeTableWord 8 w.toNat = some i := by simp [decodeTableWord, tableByte_toNat, hd]
  obtain ⟨hi, _⟩ := encode_of_decodeCommand hd
  simp only [State.withFetchWord, State.placeWord, htable, tableByte_toNat]
  cases i with
  | load | save | reset | setbtn | update | signals => rfl
  | pulseShort | escV1 | escFixed => cases hi

/-- Settles O8: the placed word is the oldest the host has issued, with the source on the port, so the step accepts it
and has the state `s` again. -/
theorem placedCommandRunsNext : Obligations.PlacedCommandRunsNext := by
  intro s w i hd
  rw [withFetchWord_of_decode_ok s hd]
  exact stepRunsTheDecodedCommand (s.issueFirst w) ⟨w, s.src⟩ s.pending i rfl hd

end Sys2Proof.Machine
end

section
/-!
SUPPORT. What LOAD does not read: the reserved bytes, what follows a payload that is all there, and the port beyond the
stream it holds (30_encoding.md R69, 40_container_parser.md R89).
-/

namespace Sys2Proof.Machine

/-- A stream whose version and reserved bytes are there reaches the length step, whatever the reserved bytes are
(40_container_parser.md R79 to R81). -/
theorem loadStream_reserved (v r0 r1 r2 : Byte) (stream : List Byte) (s : State) :
    loadStream (magic ++ v :: r0 :: r1 :: r2 :: stream) s = loadLength stream (s.setVersion v) := by
  have hmagic : streamRead 12 (magic ++ v :: r0 :: r1 :: r2 :: stream) =
      ⟨magic, v :: r0 :: r1 :: r2 :: stream, false⟩ := streamRead_append magic _
  have hversion : streamRead 1 (v :: r0 :: r1 :: r2 :: stream) = ⟨[v], r0 :: r1 :: r2 :: stream, false⟩ :=
    streamRead_append [v] _
  have hreserved : streamRead 3 (r0 :: r1 :: r2 :: stream) = ⟨[r0, r1, r2], stream, false⟩ :=
    streamRead_append [r0, r1, r2] stream
  simp only [loadStream, hmagic, loadVersion, hversion, loadReserved, hreserved, Bool.false_eq_true, if_false,
    if_true]

/-! ## The port -/

theorem truncatedTape_src (bytes : List Byte) (len : Pos) (s : State) (x : Source) :
    truncatedTape bytes len { s with src := x } = { truncatedTape bytes len s with src := x } := by
  cases hp : s.cfg.truncPolicy <;> simp only [truncatedTape, hp] <;> rfl

theorem loadPayload_src (len : Pos) (stream : List Byte) (s : State) (x : Source) :
    loadPayload len stream { s with src := x } = { loadPayload len stream s with src := x } := by
  rcases Nat.lt_or_ge stream.length len.toNat with h | h
  · rw [loadPayload_truncated _ h, loadPayload_truncated _ h, truncatedTape_src]; rfl
  · rw [loadPayload_whole _ h, loadPayload_whole _ h]; rfl

/-- The length step reads the stream it is given, and not the port. -/
theorem loadLength_src (stream : List Byte) (s : State) (x : Source) :
    loadLength stream { s with src := x } = { loadLength stream s with src := x } := by
  simp only [loadLength]
  split
  · rfl
  · split
    · rfl
    · exact loadPayload_src _ _ _ x

/-- LOAD of a container past its reserved bytes: the length step's answer, beside the stream on the port. -/
theorem execLoad_reserved (v r0 r1 r2 : Byte) (stream : List Byte) (s : State) :
    execLoad { s with src := .stream (magic ++ v :: r0 :: r1 :: r2 :: stream) } =
      .next { loadLength stream (s.setVersion v) with
        src := .stream (magic ++ v :: r0 :: r1 :: r2 :: stream) } := by
  rw [← loadLength_src, execLoad]
  exact congrArg _ (loadStream_reserved v r0 r1 r2 stream _)

/-! ## What follows the payload -/

theorem loadPayload_append {len : Pos} {stream : List Byte} {s : State} (tail : List Byte)
    (h : (loadPayload len stream s).result = .load .none true) :
    loadPayload len (stream ++ tail) s = loadPayload len stream s := by
  rcases Nat.lt_or_ge stream.length len.toNat with hshort | hlen
  · rw [loadPayload_truncated s hshort] at h
    cases h
  · have happ : len.toNat ≤ (stream ++ tail).length := by simp; omega
    rw [loadPayload_whole s happ, loadPayload_whole s hlen, List.take_append_of_le_length hlen]

/-- The length step on a stream that holds the four bytes of the length (40_container_parser.md R82, R83). -/
theorem loadLength_of_four_le {stream : List Byte} (s : State) (hlen : 4 ≤ stream.length) :
    loadLength stream s =
      if s.cfg.tapeCapacity < littleEndian (stream.take 4) then loadDone .error s
      else loadPayload (BitVec.ofNat 32 (littleEndian (stream.take 4))) (stream.drop 4) s := by
  have hwhole : ¬ (streamRead 4 stream).short = true := by simpa using hlen
  exact if_neg hwhole

/-- Where the length step succeeds, it has read the length and the whole payload, so more bytes change nothing
(40_container_parser.md R89). -/
theorem loadLength_append {stream : List Byte} {s : State} (tail : List Byte)
    (h : (loadLength stream s).result = .load .none true) :
    loadLength (stream ++ tail) s = loadLength stream s := by
  rcases Nat.lt_or_ge stream.length 4 with hshort | hlen
  · simp [loadLength, hshort, loadDone] at h
  · have happ : 4 ≤ (stream ++ tail).length := by simp; omega
    rw [loadLength_of_four_le s hlen] at h ⊢
    rw [loadLength_of_four_le s happ, List.take_append_of_le_length hlen, List.drop_append_of_le_length hlen]
    by_cases hcap : s.cfg.tapeCapacity < littleEndian (stream.take 4)
    · rw [if_pos hcap] at h
      cases h
    · rw [if_neg hcap] at h
      rw [if_neg hcap, if_neg hcap, loadPayload_append tail h]

/-- Settles O18: past the reserved bytes LOAD is the length step on the stream that follows them, which stops reading
at the end of the payload. -/
theorem loadIgnoresTrailingAndReservedBytes : Obligations.LoadIgnoresTrailingAndReservedBytes := by
  intro s v r0 r1 r2 q0 q1 q2 l0 l1 l2 l3 P tail
  obtain ⟨t, ht⟩ : ∃ t, loadLength (l0 :: l1 :: l2 :: l3 :: P) (s.setVersion v) = t := ⟨_, rfl⟩
  have hload := fun a b c => execLoad_reserved v a b c (l0 :: l1 :: l2 :: l3 :: P) s
  rw [ht] at hload
  refine ⟨_, hload r0 r1 r2, hload q0 q1 q2, fun hok => ?_⟩
  have htail : loadLength (l0 :: l1 :: l2 :: l3 :: (P ++ tail)) (s.setVersion v) = t :=
    (loadLength_append tail (ht ▸ hok)).trans ht
  have hlonger := execLoad_reserved v r0 r1 r2 (l0 :: l1 :: l2 :: l3 :: (P ++ tail)) s
  rw [htail] at hlonger
  exact hlonger

end Sys2Proof.Machine
end

section
/-!
SUPPORT. The payload symbols as UPDATE fetches them and by themselves, and that every version other than 1 plays alike
(30_encoding.md R68, R71 to R73).
-/

namespace Sys2Proof.Machine

/-! ## Written bytes at the cursor -/

/-- Settles O31: the written byte is read with no side effect, and it is a short pulse. -/
theorem updateFetchesAShortPulse : Obligations.UpdateFetchesAShortPulse := by
  rintro s b hm hmo hc ⟨hlt, hf, hread⟩ hb
  have hmem : memRead s.tapePos.toNat s.fetching = .next (b, s.fetching) := memRead_filled hlt hf hread
  exact execUpdate_short ⟨hm, hmo⟩ hc hlt hb hmem

/-- Settles O33: the written escape stands alone in this version. -/
theorem updateFetchesAFixedEscape : Obligations.UpdateFetchesAFixedEscape := by
  rintro s hm hmo hc hv ⟨hlt, hf, hread⟩
  have hmem : memRead s.tapePos.toNat s.fetching = .next (0, s.fetching) := memRead_filled hlt hf hread
  exact execUpdate_escFixed ⟨hm, hmo⟩ hc hlt hv hmem

/-- Settles O38: a symbol by itself passes its bytes and loads its length and half of it. -/
theorem symbolsLoadTheirPulses : Obligations.SymbolsLoadTheirPulses := by
  intro s b b0 b1 b2
  refine ⟨?_, ?_, rfl⟩
  · rw [← shortPulseLength_half]; rfl
  · rw [← escapePulseLength_half, ← escapePulseLength_eq]; rfl

/-! ## Versions other than 1 -/

/-- An index below `tapeFilled` that the buffer does not list reads as a draw (log 7). -/
theorem memRead_unlisted {s : State} {i : Nat} (hl : i < s.tapeLength.toNat) (hf : i < s.tapeFilled.toNat)
    (hr : s.tapeData.read i = none) : memRead i s = .next s.draw := by
  simp [memRead, Nat.not_le.mpr hl, hf, hr]

/-- The payload read does not read the version. -/
theorem memRead_setVersion {i : Nat} {s t : State} {b : Byte} (v : Byte) (h : memRead i s = .next (b, t)) :
    memRead i (s.setVersion v) = .next (b, t.setVersion v) := by
  rcases Nat.lt_or_ge i s.tapeLength.toNat with hl | hl
  · rcases Nat.lt_or_ge i s.tapeFilled.toNat with hf | hf
    · cases hr : s.tapeData.read i with
      | some c =>
        cases (memRead_filled hl hf hr).symm.trans h
        exact memRead_filled hl hf hr
      | none =>
        cases (memRead_unlisted hl hf hr).symm.trans h
        exact memRead_unlisted (s := s.setVersion v) hl hf hr
    · cases (memRead_unfilled hl hf).symm.trans h
      exact memRead_unfilled (s := s.setVersion v) hl hf
  · cases (memRead_past hl).symm.trans h

theorem runSymbol_setVersion {y : Symbol} {s t : State} (v : Byte) (h : runSymbol y s = .next t) :
    runSymbol y (s.setVersion v) = .next (t.setVersion v) := by
  cases y <;> cases h <;> rfl

theorem fetchPulse_of_symbol {s t : State} {y : Symbol} (hlt : s.tapePos.toNat < s.tapeLength.toNat)
    (hy : fetchSymbol s = .next (some y, t)) : fetchPulse s = runSymbol y t := by
  simp [fetchPulse, Nat.not_le.mpr hlt, hy]

theorem fetchPulse_of_endOfData {s : State} (hle : s.tapeLength.toNat ≤ s.tapePos.toNat) :
    fetchPulse s = .next s := by
  simp [fetchPulse, hle]

/-- In another version than 1 the byte at the cursor is a symbol by itself (30_encoding.md R71, R73, R74). -/
theorem fetchSymbol_otherVersion {s t : State} {b : Byte} (hv : s.tapVersion ≠ 1)
    (hlt : s.tapePos.toNat < s.tapeLength.toNat) (hb : memRead s.tapePos.toNat s = .next (b, t)) :
    fetchSymbol s = .next (some (if b = 0 then .escFixed else .short b), t) := by
  split
  · next h0 => exact fetchSymbol_escFixed hlt (h0 ▸ hb) hv
  · next h0 => exact fetchSymbol_short hlt hb h0

section OtherVersions

variable {s t : State} {v : Byte} (hs : s.tapVersion ≠ 1) (hv : v ≠ 1)
include hs hv

/-- The fetch takes the same symbol, or finds the same end of data. -/
theorem fetchPulse_otherVersion (h : fetchPulse s = .next t) :
    fetchPulse (s.setVersion v) = .next (t.setVersion v) := by
  rcases Nat.lt_or_ge s.tapePos.toNat s.tapeLength.toNat with hlt | hle
  · obtain ⟨b, k, hb⟩ := memRead_next hlt
    have hold := fetchSymbol_otherVersion hs hlt hb
    have hnew := fetchSymbol_otherVersion (s := s.setVersion v) hv hlt (memRead_setVersion v hb)
    rw [fetchPulse_of_symbol hlt hold] at h
    rw [fetchPulse_of_symbol (s := s.setVersion v) hlt hnew]
    exact runSymbol_setVersion v h
  · rw [fetchPulse_of_endOfData hle] at h
    cases h
    exact fetchPulse_of_endOfData hle

theorem playMotor_otherVersion (h : playMotor s = .next t) :
    playMotor (s.setVersion v) = .next (t.setVersion v) := by
  rcases Nat.lt_or_ge s.cyclesLeft.toNat 2 with hc | hc
  · have hc : s.cyclesLeft.toNat ≤ 1 := Nat.le_of_lt_succ hc
    rw [playMotor_elapsed hc] at h
    rw [playMotor_elapsed (s := s.setVersion v) hc]
    exact fetchPulse_otherVersion (s := (s.setCyclesLeft 0).setSigOut _) hs hv h
  · rw [playMotor_inProgress hc] at h
    cases h
    exact playMotor_inProgress (s := s.setVersion v) hc

theorem playCycle_otherVersion (h : playCycle s = .next t) :
    playCycle (s.setVersion v) = .next (t.setVersion v) := by
  rw [playCycle] at h ⊢
  split at h
  · next hon => exact (if_pos hon).trans (playMotor_otherVersion (s := s.setSense true) hs hv h)
  · next hoff => cases h; exact if_neg hoff

/-- UPDATE does not tell two versions other than 1 apart: outside the fetch it does not read the version. -/
theorem execUpdate_otherVersion (h : execUpdate s = .next t) :
    execUpdate (s.setVersion v) = .next (t.setVersion v) := by
  cases hmode : s.mode with
  | play =>
    simp only [execUpdate, hmode] at h
    obtain ⟨u, hu, hlast⟩ := andThen_eq_next.mp h
    cases hlast
    have hplay : playCycle (s.setVersion v) = .next (u.setVersion v) := playCycle_otherVersion hs hv hu
    exact execUpdate_play (s := s.setVersion v) hmode hplay
  | record | done | none | stop | pause =>
    simp only [execUpdate, hmode] at h
    cases h
    simp only [execUpdate, State.setVersion_mode, hmode]
    rfl

end OtherVersions

/-- Settles O44: version 0 is one of the versions other than 1, and what UPDATE answers under it carries over. -/
theorem otherVersionsDecodeLikeZero : Obligations.OtherVersionsDecodeLikeZero := by
  intro s v hv
  obtain ⟨p, l, h, k, g, r, hu⟩ := execUpdate_next (s.setVersion 0)
  have hzero : (s.setVersion 0).tapVersion ≠ 1 := by simp
  exact ⟨_, hu, execUpdate_otherVersion (s := s.setVersion 0) hzero hv hu⟩

end Sys2Proof.Machine
end

section
/-!
SUPPORT. What LOAD answers, by its source and by how much of a container the stream holds, and what SAVE answers
(40_container_parser.md R77 to R90).
-/

namespace Sys2Proof.Machine

/-! ## The source -/

/-- A source that cannot be opened is not released (40_container_parser.md R78). -/
theorem execLoad_notFound {s : State} (hsrc : s.src = .notFound) :
    execLoad s = .next (s.deliver (.load .fileNotFound false)) := by
  simp only [execLoad, hsrc]

theorem execLoad_of_loadStream {s t : State} {S : List Byte} (hsrc : s.src = .stream S)
    (h : loadStream S s = t) : execLoad s = .next t := by
  simp only [execLoad, hsrc, h]

/-- Settles O9: the unopened source is answered before any step that writes. -/
theorem loadOfUnopenedSource : Obligations.LoadOfUnopenedSource := by
  intro s hsrc
  exact execLoad_notFound hsrc

/-! ## The magic (40_container_parser.md R79) -/

theorem loadStream_short {S : List Byte} (s : State) (h : S.length < 12) :
    loadStream S s = loadDone .error s := by
  have hshort : (streamRead 12 S).short = true := by simpa using h
  exact if_pos hshort

theorem loadStream_mismatch {S : List Byte} (s : State) (hlen : 12 ≤ S.length) (hne : S.take 12 ≠ magic) :
    loadStream S s = loadDone .fileNotTAP s := by
  have hwhole : ¬ (streamRead 12 S).short = true := by simpa using hlen
  exact (if_neg hwhole).trans (if_neg hne)

theorem loadStream_magic (rest : List Byte) (s : State) :
    loadStream (magic ++ rest) s = loadVersion rest s := by
  have hread : streamRead 12 (magic ++ rest) = ⟨magic, rest, false⟩ := streamRead_append magic rest
  simp only [loadStream, hread, Bool.false_eq_true, if_false, if_true]

/-- Settles O10: the magic step ends LOAD in both cases, before any step that writes. -/
theorem loadChecksTheMagic : Obligations.LoadChecksTheMagic := by
  intro s S hsrc
  refine ⟨fun hshort => ?_, fun hlen hne => ?_⟩
  · exact execLoad_of_loadStream hsrc (loadStream_short s hshort)
  · exact execLoad_of_loadStream hsrc (loadStream_mismatch s hlen hne)

/-! ## The rest of the header (40_container_parser.md R80 to R83) -/

theorem loadVersion_nil (s : State) : loadVersion [] s = loadDone .error s := rfl

/-- The version is stored before the reserved bytes are read (40_container_parser.md R80). -/
theorem loadVersion_cons (v : Byte) (rest : List Byte) (s : State) :
    loadVersion (v :: rest) s = loadReserved rest (s.setVersion v) := rfl

theorem loadReserved_short {stream : List Byte} (s : State) (h : stream.length < 3) :
    loadReserved stream s = loadDone .error s := by
  have hshort : (streamRead 3 stream).short = true := by simpa using h
  exact if_pos hshort

theorem loadReserved_of_three_le {stream : List Byte} (s : State) (h : 3 ≤ stream.length) :
    loadReserved stream s = loadLength (stream.drop 3) s := by
  have hwhole : ¬ (streamRead 3 stream).short = true := by simpa using h
  exact if_neg hwhole

theorem loadLength_short {stream : List Byte} (s : State) (h : stream.length < 4) :
    loadLength stream s = loadDone .error s := by
  have hshort : (streamRead 4 stream).short = true := by simpa using h
  exact if_pos hshort

/-- Fewer than the seven bytes after the version end either in the reserved bytes or in the length
(40_container_parser.md R81, R82). -/
theorem loadReserved_of_lt_seven {stream : List Byte} (s : State) (h : stream.length < 7) :
    loadReserved stream s = loadDone .error s := by
  rcases Nat.lt_or_ge stream.length 3 with hshort | hlen
  · exact loadReserved_short s hshort
  · rw [loadReserved_of_three_le s hlen]
    exact loadLength_short s (by simp; omega)

/-- Settles O11: with no version byte nothing is written; with one, the short read is found after its write. -/
theorem loadShortHeaderIsError : Obligations.LoadShortHeaderIsError := by
  intro s v tail
  refine ⟨fun hsrc => ?_, fun hsrc htail => ?_⟩
  · exact execLoad_of_loadStream hsrc ((loadStream_magic [] s).trans (loadVersion_nil s))
  · have hheader : loadStream (magic ++ v :: tail) s = loadDone .error (s.setVersion v) := by
      rw [loadStream_magic, loadVersion_cons, loadReserved_of_lt_seven _ htail]
    exact execLoad_of_loadStream hsrc hheader

/-- Settles O12: the capacity test comes before the payload step, and after the write of the version. -/
theorem loadAboveCapacityIsError : Obligations.LoadAboveCapacityIsError := by
  intro s v r0 r1 r2 l0 l1 l2 l3 P hsrc hcap
  rw [← littleEndian_four] at hcap
  have hheader := loadStream_header v r0 r1 r2 l0 l1 l2 l3 P s
  rw [if_pos hcap] at hheader
  exact execLoad_of_loadStream hsrc hheader

/-! ## The payload (40_container_parser.md R84 to R86) -/

/-- The declared length fits the registers that hold it (20_memory.md R40). -/
theorem exists_pos_of_declaredLength {l0 l1 l2 l3 : Byte} {len : Nat}
    (hlen : len = l0.toNat + l1.toNat * 2 ^ 8 + l2.toNat * 2 ^ 16 + l3.toNat * 2 ^ 24) :
    ∃ pos : Pos, pos.toNat = len ∧ pos = BitVec.ofNat 32 len ∧ littleEndian [l0, l1, l2, l3] = pos.toNat := by
  have hle : littleEndian [l0, l1, l2, l3] = len := (littleEndian_four l0 l1 l2 l3).trans hlen.symm
  have hlt : len < 2 ^ 32 := hle ▸ (littleEndian_lt [l0, l1, l2, l3]).trans_eq (by norm_num)
  have hpos : (BitVec.ofNat 32 len).toNat = len := Nat.mod_eq_of_lt hlt
  exact ⟨_, hpos, rfl, hle.trans hpos.symm⟩

/-- Settles O13: a payload that is all there is read to its declared length, which is what the three registers of the
tape say. -/
theorem loadReplacesTheTape : Obligations.LoadReplacesTheTape := by
  intro s v r0 r1 r2 l0 l1 l2 l3 P len hsrc hlen hcap hP
  obtain ⟨pos, rfl, hpos, hle⟩ := exists_pos_of_declaredLength hlen
  rw [← hpos]
  exact execLoad_whole hsrc hle hcap hP

theorem truncatedTape_reject {s : State} (bytes : List Byte) (len : Pos) (hp : s.cfg.truncPolicy = .reject) :
    truncatedTape bytes len s = s.setTape [] 0 0 := by
  simp only [truncatedTape, hp]

theorem truncatedTape_legacy {s : State} (bytes : List Byte) (len : Pos) (hp : s.cfg.truncPolicy = .legacy) :
    truncatedTape bytes len s = s.setTape bytes len (BitVec.ofNat 32 bytes.length) := by
  simp only [truncatedTape, hp]

/-- LOAD of a container whose payload ends early, within the capacity, leaves what the policy says of the bytes read
(40_container_parser.md R85, R86). -/
theorem execLoad_truncated {s : State} {v r0 r1 r2 l0 l1 l2 l3 : Byte} {P : List Byte} {len : Pos}
    (hsrc : s.src = .stream (magic ++ v :: r0 :: r1 :: r2 :: l0 :: l1 :: l2 :: l3 :: P))
    (hlen : littleEndian [l0, l1, l2, l3] = len.toNat) (hcap : len.toNat ≤ s.cfg.tapeCapacity)
    (hP : P.length < len.toNat) :
    execLoad s = .next (loadDone .tapTooShort (truncatedTape P len (s.setVersion v))) := by
  apply execLoad_of_loadStream hsrc
  rw [loadStream_header, hlen, if_neg (Nat.not_lt.mpr hcap), BitVec.ofNat_toNat, BitVec.setWidth_eq,
    loadPayload_truncated _ hP]

/-- Settles O15: the payload step finds the short read, and each policy writes its own tape. -/
theorem loadTruncatedPayload : Obligations.LoadTruncatedPayload := by
  intro s v r0 r1 r2 l0 l1 l2 l3 P len hsrc hlen hcap hP
  obtain ⟨pos, rfl, hpos, hle⟩ := exists_pos_of_declaredLength hlen
  have hload := execLoad_truncated hsrc hle hcap hP
  refine ⟨fun hreject => ?_, fun hlegacy => ?_⟩
  · rw [truncatedTape_reject (s := s.setVersion v) P pos hreject] at hload
    exact hload
  · rw [truncatedTape_legacy (s := s.setVersion v) P pos hlegacy] at hload
    rw [← hpos]
    exact hload

/-! ## Every outcome of LOAD (40_container_parser.md R87, R88) -/

/-- Every way in which a LOAD that opened its source ends releases it, and is not FileNotFound
(40_container_parser.md R87). -/
theorem loadStream_result (S : List Byte) (s : State) :
    ∃ e, e ≠ .fileNotFound ∧ (loadStream S s).result = .load e true := by
  rcases loadStream_cases S s with ⟨e, h, hne⟩ | ⟨v, h⟩ | ⟨v, e, bytes, l, f, h, _, _, _, hne⟩
  · exact ⟨e, hne, by rw [h]; rfl⟩
  · exact ⟨.error, by decide, by rw [h]; rfl⟩
  · exact ⟨e, hne, by rw [h]; rfl⟩

/-- Settles O16, by whether the source can be opened. -/
theorem loadReleasesExactlyWhatItOpened : Obligations.LoadReleasesExactlyWhatItOpened := by
  intro s
  cases hsrc : s.src with
  | notFound => exact ⟨_, .fileNotFound, execLoad_notFound hsrc, .inl ⟨rfl, rfl, rfl⟩⟩
  | stream S =>
    obtain ⟨e, hne, hresult⟩ := loadStream_result S s
    exact ⟨_, e, execLoad_of_loadStream hsrc rfl, .inr ⟨by simp, hne, hresult⟩⟩

/-- Settles O17: LOAD touches only the tape image with its version and the result, and every register and field named
here is another one. -/
theorem loadKeepsCursorModeAndSignals : Obligations.LoadKeepsCursorModeAndSignals := by
  intro s
  obtain ⟨m, l, f, v, r, hload⟩ := execLoad_next s
  exact ⟨_, hload, rfl, rfl, rfl, rfl, rfl, rfl, rfl, rfl, rfl, rfl, rfl⟩

/-! ## SAVE (40_container_parser.md R90) -/

/-- The range of `SAVE_ERR` leaves out the success code (00_scope.md R8). -/
theorem saveErr_ne_none_of_wf {c : Config} (h : c.wf = true) : c.saveErr ≠ .none := by
  simp only [Config.wf, Bool.and_eq_true, decide_eq_true_eq] at h
  obtain ⟨_, hsave⟩ := h
  exact hsave

/-- Settles O19: SAVE delivers `SAVE_ERR` and nothing else, and the parameter's range leaves out success. -/
theorem saveAlwaysFails : Obligations.SaveAlwaysFails := by
  intro s
  exact ⟨rfl, saveErr_ne_none_of_wf⟩

end Sys2Proof.Machine
end

section
/-!
SUPPORT. UPDATE by the mode: what it answers where the tape does not move, inside a pulse and at end of data
(41_pulse_player.md R93 to R99, R103 to R105).
-/

namespace Sys2Proof.Machine

/-! ## The signals by their masks (30_encoding.md R62) -/

theorem withSense_false (g : Sig) : withSense false g = g &&& 0b10 := by
  revert g; decide

theorem withSense_true (g : Sig) : withSense true g = (g &&& 0b10) ||| 0b01 := by
  revert g; decide

/-- `Sense` is on while the deck plays, so the register follows `Read` alone. -/
theorem packOut_true (r : Bool) : packOut true r = if r = true then 0b11 else 0b01 := by
  revert r; decide

/-! ## UPDATE's result (41_pulse_player.md R104) -/

theorem updatePos_eq_minus1_iff {s : State} : s.updatePos = .minus1 ↔ s.tapeLength = 0 := by
  unfold State.updatePos
  split <;> simp_all

theorem updatePos_of_tapeLength_ne_zero {s : State} (h : s.tapeLength ≠ 0) : s.updatePos = .pos s.tapePos :=
  if_neg h

theorem updatePos_cases (s : State) : s.updatePos = .minus1 ∨ s.updatePos = .pos s.tapePos := by
  by_cases h : s.tapeLength = 0
  · exact .inl (updatePos_eq_minus1_iff.mpr h)
  · exact .inr (updatePos_of_tapeLength_ne_zero h)

/-- In Play the position is formed after the handler has run, with status RUNNING (41_pulse_player.md R104). -/
theorem result_of_execUpdate_play {s t : State} (hm : s.mode = .play) (h : execUpdate s = .next t) :
    t.result = .update t.updatePos .running := by
  simp only [execUpdate, hm] at h
  obtain ⟨u, _, hlast⟩ := andThen_eq_next.mp h
  cases hlast
  rfl

/-! ## Each mode in turn -/

theorem execUpdate_done {s : State} (hm : s.mode = .done) :
    execUpdate s = .next ((s.setSigOut 0).deliver (.update .minus1 .done)) := by
  simp only [execUpdate, hm]

theorem execUpdate_stopped {s : State} (hm : s.mode = .none ∨ s.mode = .stop ∨ s.mode = .pause) :
    execUpdate s = .next ((s.setSense false).deliverUpdate .none) := by
  rcases hm with h | h | h <;> simp only [execUpdate, h]

theorem execUpdate_record {s : State} (hm : s.mode = .record) :
    execUpdate s = .next ((s.setSense true).deliverUpdate (recordStatus s)) := by
  simp only [execUpdate, hm]

theorem execUpdate_stalled {s : State} (hm : s.mode = .play) (hmo : s.motor = false) :
    execUpdate s = .next ((s.setSense true).deliverUpdate .running) := by
  have hp : playCycle s = .next (s.setSense true) := by simp [playCycle, hmo]
  exact execUpdate_play hm hp

/-- Settles O25: Done answers without forming a position. -/
theorem updateInDone : Obligations.UpdateInDone := by
  intro s hm
  exact execUpdate_done hm

/-- Settles O26: the three modes share one arm, which clears the `Sense` bit of the mask. -/
theorem updateWhileStopped : Obligations.UpdateWhileStopped := by
  intro s hm
  rw [← withSense_false]
  exact execUpdate_stopped hm

/-- Settles O27: the handler sets `Sense`, and its status is the motor's. -/
theorem updateInRecord : Obligations.UpdateInRecord := by
  intro s hm
  rw [← withSense_true]
  exact execUpdate_record hm

/-- Settles O28: without the motor the play handler ends after `Sense`. -/
theorem updateStallsWithoutMotor : Obligations.UpdateStallsWithoutMotor := by
  intro s hm hmo
  rw [← withSense_true]
  exact execUpdate_stalled hm hmo

/-! ## The countdown -/

theorem countdown_eq_sub_one {c : Cnt} (h : 2 ≤ c.toNat) : countdown c = c - 1 := by
  have hc : c ≠ 0 := by rintro rfl; simp at h
  exact if_neg hc

theorem sub_one_toNat {c : Cnt} (h : 2 ≤ c.toNat) : (c - 1).toNat = c.toNat - 1 := by
  rw [← countdown_eq_sub_one h, countdown_of_pos (by omega)]

/-- Inside a pulse, UPDATE's state with its result (41_pulse_player.md R96 to R98, R104). -/
theorem execUpdate_countsDown {s : State} (hp : s.Playing) (hc : 2 ≤ s.cyclesLeft.toNat) :
    execUpdate s = .next (((s.setCyclesLeft (s.cyclesLeft - 1)).setSigOut
      (packOut true (readLevel (s.cyclesLeft - 1) s.halfwayCycles))).deliverUpdate .running) := by
  obtain ⟨r, hu⟩ := execUpdate_inProgress hp hc
  obtain rfl : r = .update s.updatePos .running := result_of_execUpdate_play hp.1 hu
  rw [hu, countdown_eq_sub_one hc]
  rfl

/-- Settles O29: the new count is one less than a count of at least 2, and the detector compares it. -/
theorem updateCountsDown : Obligations.UpdateCountsDown := by
  intro s hm hmo hc
  have hread : readLevel (s.cyclesLeft - 1) s.halfwayCycles = true ↔
      s.cyclesLeft.toNat - 1 < s.halfwayCycles.toNat := by
    rw [readLevel, decide_eq_true_eq, BitVec.lt_def, sub_one_toNat hc]
  simp only [← hread, ← packOut_true]
  exact execUpdate_countsDown ⟨hm, hmo⟩ hc

/-- Settles O30: at end of data the fetch leaves the state it was given, with the countdown at its floor. -/
theorem updateIdlesAtEndOfData : Obligations.UpdateIdlesAtEndOfData := by
  intro s hm hmo hc hend
  obtain ⟨p, l, h, k, hf, hu⟩ := execUpdate_elapsed hm hmo hc
  have hidle : fetchPulse s.fetching = .next s.fetching := fetchPulse_of_endOfData hend
  have hsame := Host.Outcome.next.inj (hf.symm.trans hidle)
  simp only [State.mk.injEq, true_and, and_true] at hsame
  obtain ⟨rfl, rfl, rfl, rfl⟩ := hsame
  exact hu

/-- Settles O34: the written escape asks for four bytes, and the payload ends before them. -/
theorem updateAtATruncatedEscape : Obligations.UpdateAtATruncatedEscape := by
  rintro s hm hmo hc hv ⟨hlt, hf, hread⟩ hshort
  have hesc : memRead s.tapePos.toNat s.fetching = .next (0, s.fetching) := memRead_filled hlt hf hread
  exact execUpdate_of_truncated ⟨hm, hmo⟩ hc hlt (fetchSymbol_truncated (s := s.fetching) hv hshort hesc)

/-! ## The result in every mode -/

/-- What O42 says of the position and the state that holds it, where the position is formed after a handler that keeps
the tape's length (41_pulse_player.md R104). -/
theorem updateResult_of_deliverUpdate {s t : State} {h : HandlerStatus} (hm : s.mode ≠ .done)
    (hlen : t.tapeLength = s.tapeLength) (hu : execUpdate s = .next (t.deliverUpdate h)) :
    ∃ u p, execUpdate s = .next u ∧ u.result = .update p h ∧
      (p = .minus1 ↔ s.mode = .done ∨ s.tapeLength = 0) ∧ (p = .minus1 ∨ p = .pos u.tapePos) := by
  refine ⟨_, t.updatePos, hu, rfl, ?_, updatePos_cases t⟩
  rw [updatePos_eq_minus1_iff, hlen, or_iff_right hm]

/-- Settles O42, by the mode: the status is the arm's own, and outside Done every arm forms the position alike. -/
theorem updateResultFollowsModeAndLength : Obligations.UpdateResultFollowsModeAndLength := by
  intro s
  cases hm : s.mode with
  | done => exact ⟨_, .minus1, .done, execUpdate_done hm, rfl, by simp, .inl rfl, by simp, by simp, by simp⟩
  | play =>
    obtain ⟨p, l, h, k, r, hp⟩ := playCycle_next s
    obtain ⟨u, pos, hu, hr, hiff, hpos⟩ :=
      updateResult_of_deliverUpdate (s := s) (by simp [hm]) (by simp) (execUpdate_play hm hp)
    exact ⟨u, pos, .running, hu, hr, hm ▸ hiff, hpos, by simp, by simp, by simp⟩
  | record =>
    obtain ⟨u, pos, hu, hr, hiff, hpos⟩ :=
      updateResult_of_deliverUpdate (s := s) (by simp [hm]) (by simp) (execUpdate_record hm)
    refine ⟨u, pos, _, hu, hr, hm ▸ hiff, hpos, ?_⟩
    cases hmo : s.motor <;> simp_all [recordStatus, State.motor, motorBit]
  | none | stop | pause =>
    obtain ⟨u, pos, hu, hr, hiff, hpos⟩ :=
      updateResult_of_deliverUpdate (s := s) (by simp [hm]) (by simp) (execUpdate_stopped (by simp [hm]))
    exact ⟨u, pos, .none, hu, hr, hm ▸ hiff, hpos, by simp, by simp, by simp⟩

end Sys2Proof.Machine
end

section
/-!
SUPPORT. UPDATE as the exec of the symbol at the cursor (41_pulse_player.md R99 to R101), and that a wholly written
tape needs no draws (R109).
-/

namespace Sys2Proof.Machine

/-! ## The symbol at the cursor -/

/-- The counter a symbol loads (30_encoding.md R71 to R73). -/
def symbolPulse : Symbol → Cnt
  | .short b => shortPulseLength b
  | .escV1 b0 b1 b2 => escapePulseLength b0 b1 b2
  | .escFixed => fixedPulseLength

/-- A symbol's effect: its bytes are passed and its pulse is loaded (41_pulse_player.md R100, R101). -/
theorem runSymbol_eq (y : Symbol) (s : State) :
    runSymbol y s = .next (s.loadPulse (symbolPulse y) (BitVec.ofNat 32 (encodeSymbol y).length)) := by
  cases y <;> rfl

theorem exec_symbolInstr (y : Symbol) (s : State) : exec (symbolInstr y) s = runSymbol y s := by
  cases y <;> rfl

/-- Where a symbol's bytes stand written at the cursor, the fetch answers it. -/
theorem fetchSymbol_of_holds {s : State} {y : Symbol} (hw : y.wf = true) (hv : y.fitsVersion s.tapVersion = true)
    (hb : ∀ k b, (encodeSymbol y)[k]? = some b → s.Holds (s.tapePos.toNat + k) b) :
    fetchSymbol s = .next (some y, s) := by
  have hpos := encodeSymbol_length_pos y
  obtain ⟨hl, hf, _⟩ := hb ((encodeSymbol y).length - 1) _ (List.getElem?_eq_getElem (by omega))
  refine fetchSymbol_filled hw hv (by omega) (by omega) fun k b hk => ?_
  obtain ⟨_, _, hread⟩ := hb k b hk
  exact hread

/-- UPDATE at a symbol that the fetch finds: its pulse is loaded and the cursor passes it. -/
theorem execUpdate_of_fetchSymbol {s : State} {y : Symbol} {k : Nat} (hp : s.Playing) (hc : s.cyclesLeft.toNat ≤ 1)
    (hlt : s.tapePos.toNat < s.tapeLength.toNat)
    (hy : fetchSymbol s.fetching = .next (some y, { s.fetching with draws := k })) :
    execUpdate s = .next (s.fetched (s.tapePos + BitVec.ofNat 32 (encodeSymbol y).length) (symbolPulse y)
      (symbolPulse y / 2) k) :=
  execUpdate_of_symbol hp hc hlt hy (runSymbol_eq y)

/-- Settles O39: the fetch finds the symbol, whose effect is its exec; UPDATE adds its result. -/
theorem updateRunsTheSymbolAtTheCursor : Obligations.UpdateRunsTheSymbolAtTheCursor := by
  intro s y hm hmo hc hw hv hb
  rw [encode_symbolInstr] at hb
  obtain ⟨hlt, _⟩ := hb 0 _ (List.getElem?_eq_getElem (encodeSymbol_length_pos y))
  have hy : fetchSymbol s.fetching = .next (some y, s.fetching) := fetchSymbol_of_holds hw hv hb
  refine ⟨_, (exec_symbolInstr y s.fetching).trans (runSymbol_eq y s.fetching), ?_⟩
  exact execUpdate_of_fetchSymbol ⟨hm, hmo⟩ hc hlt hy

/-! ## A wholly written tape -/

/-- Every index of a wholly written payload holds a byte (20_memory.md R39). -/
theorem exists_holds_of_allFilled {s : State} {i : Nat} (hs : s.AllFilled) (hl : i < s.tapeLength.toNat) :
    ∃ b, s.Holds i b := by
  obtain ⟨hbuf, hfill⟩ := hs
  have hf : i < s.tapeFilled.toNat := hfill ▸ hl
  have hmem : i ∈ s.tapeData.map Prod.fst := hbuf ▸ List.mem_range.mpr hf
  obtain ⟨b, hb⟩ := Memory.read_isSome_of_mem hmem
  exact ⟨b, hl, hf, hb⟩

/-- The state with another draw counter (log 5). -/
abbrev State.setDraws (s : State) (d : Nat) : State := { s with draws := d }

/-- The operation answers the same from any draw counter, but for the counter, which it leaves. -/
def IgnoresDraws (f : State → Host.Outcome State Fault Refusal) (s : State) : Prop :=
  ∃ t : State, ∀ d, f (s.setDraws d) = .next (t.setDraws d)

/-- Reads inside a wholly written payload, in a row, answer its bytes from any draw counter. -/
theorem memReadRun_allFilled {s : State} (hs : s.AllFilled) {n : Nat} : ∀ {i : Nat}, i + n ≤ s.tapeLength.toNat →
    ∃ bs, ∀ d, memReadRun i n (s.setDraws d) = .next (bs, s.setDraws d) := by
  induction n with
  | zero => intro i _; exact ⟨[], fun _ => rfl⟩
  | succ n ih =>
    intro i h
    obtain ⟨b, hb⟩ := exists_holds_of_allFilled hs (i := i) (by omega)
    obtain ⟨bs, hbs⟩ := ih (i := i + 1) (by omega)
    exact ⟨b :: bs, fun d => memReadRun_succ_of_holds (s := s.setDraws d) hb (hbs d)⟩

/-- The fetch of a symbol takes no draw: it reads bytes of the payload alone. -/
theorem fetchSymbol_allFilled {s : State} (hs : s.AllFilled) (hlt : s.tapePos.toNat < s.tapeLength.toNat) :
    ∃ y?, ∀ d, fetchSymbol (s.setDraws d) = .next (y?, s.setDraws d) := by
  obtain ⟨b, hl, hf, hread⟩ := exists_holds_of_allFilled hs hlt
  have hfirst : ∀ d, memRead s.tapePos.toNat (s.setDraws d) = .next (b, s.setDraws d) :=
    fun d => memRead_filled hl hf hread
  have hpos := symbolLength_pos s.tapVersion b
  by_cases hlen : s.tapeLength.toNat < s.tapePos.toNat + symbolLength s.tapVersion b
  · exact ⟨none, fun d => by simp only [fetchSymbol, hfirst, andThen_next, if_pos hlen]⟩
  · obtain ⟨bs, hbs⟩ := memReadRun_allFilled hs (n := symbolLength s.tapVersion b - 1) (i := s.tapePos.toNat + 1)
      (by omega)
    exact ⟨_, fun d => by simp only [fetchSymbol, hfirst, andThen_next, if_neg hlen, hbs]; rfl⟩

/-- An UPDATE that fetches from a wholly written tape ignores the draws. -/
theorem execUpdate_elapsed_ignoresDraws {s : State} (hs : s.AllFilled) (hp : s.Playing)
    (hc : s.cyclesLeft.toNat ≤ 1) : IgnoresDraws execUpdate s := by
  rcases Nat.lt_or_ge s.tapePos.toNat s.tapeLength.toNat with hlt | hend
  · obtain ⟨y?, hy⟩ := fetchSymbol_allFilled (s := s.fetching) hs hlt
    cases y? with
    | some y =>
      exact ⟨s.fetched (s.tapePos + BitVec.ofNat 32 (encodeSymbol y).length) (symbolPulse y) (symbolPulse y / 2) 0,
        fun d => execUpdate_of_fetchSymbol (s := s.setDraws d) hp hc hlt (hy d)⟩
    | none =>
      exact ⟨s.fetched s.tapeLength 0 s.halfwayCycles 0,
        fun d => execUpdate_of_truncated (s := s.setDraws d) hp hc hlt (hy d)⟩
  · exact ⟨s.fetching.deliverUpdate .running, fun d => updateIdlesAtEndOfData (s.setDraws d) hp.1 hp.2 hc hend⟩

/-- On a wholly written tape UPDATE ignores the draws: only the fetch reads the payload. -/
theorem execUpdate_ignoresDraws {s : State} (hs : s.AllFilled) : IgnoresDraws execUpdate s := by
  cases hm : s.mode with
  | done =>
    exact ⟨(s.setSigOut 0).deliver (.update .minus1 .done), fun d => execUpdate_done (s := s.setDraws d) hm⟩
  | record =>
    exact ⟨(s.setSense true).deliverUpdate (recordStatus s), fun d => execUpdate_record (s := s.setDraws d) hm⟩
  | none | stop | pause =>
    exact ⟨(s.setSense false).deliverUpdate .none, fun d => execUpdate_stopped (s := s.setDraws d) (by simp [hm])⟩
  | play =>
    cases hmo : s.motor with
    | false =>
      exact ⟨(s.setSense true).deliverUpdate .running, fun d => execUpdate_stalled (s := s.setDraws d) hm hmo⟩
    | true =>
      rcases Nat.lt_or_ge s.cyclesLeft.toNat 2 with hc | hc
      · exact execUpdate_elapsed_ignoresDraws hs ⟨hm, hmo⟩ (Nat.le_of_lt_succ hc)
      · exact ⟨((s.setCyclesLeft (s.cyclesLeft - 1)).setSigOut
            (packOut true (readLevel (s.cyclesLeft - 1) s.halfwayCycles))).deliverUpdate .running,
          fun d => execUpdate_countsDown (s := s.setDraws d) ⟨hm, hmo⟩ hc⟩

/-! ## The other instructions read no payload -/

theorem truncatedTape_setDraws (bytes : List Byte) (len : Pos) (s : State) (d : Nat) :
    truncatedTape bytes len (s.setDraws d) = (truncatedTape bytes len s).setDraws d := by
  cases hp : s.cfg.truncPolicy <;> simp only [truncatedTape, hp] <;> rfl

theorem loadPayload_setDraws (len : Pos) (stream : List Byte) (s : State) (d : Nat) :
    loadPayload len stream (s.setDraws d) = (loadPayload len stream s).setDraws d := by
  rcases Nat.lt_or_ge stream.length len.toNat with h | h
  · rw [loadPayload_truncated _ h, loadPayload_truncated _ h, truncatedTape_setDraws]; rfl
  · rw [loadPayload_whole _ h, loadPayload_whole _ h]; rfl

theorem loadLength_setDraws (stream : List Byte) (s : State) (d : Nat) :
    loadLength stream (s.setDraws d) = (loadLength stream s).setDraws d := by
  simp only [loadLength]
  split
  · rfl
  · split
    · rfl
    · exact loadPayload_setDraws _ _ _ d

theorem loadReserved_setDraws (stream : List Byte) (s : State) (d : Nat) :
    loadReserved stream (s.setDraws d) = (loadReserved stream s).setDraws d := by
  simp only [loadReserved]
  split
  · rfl
  · exact loadLength_setDraws _ s d

theorem loadVersion_setDraws (stream : List Byte) (s : State) (d : Nat) :
    loadVersion stream (s.setDraws d) = (loadVersion stream s).setDraws d := by
  cases stream with
  | nil => rfl
  | cons v rest => exact loadReserved_setDraws rest (s.setVersion v) d

theorem loadStream_setDraws (stream : List Byte) (s : State) (d : Nat) :
    loadStream stream (s.setDraws d) = (loadStream stream s).setDraws d := by
  simp only [loadStream]
  split
  · rfl
  · split
    · exact loadVersion_setDraws _ s d
    · rfl

theorem execLoad_ignoresDraws (s : State) : IgnoresDraws execLoad s := by
  cases hsrc : s.src with
  | notFound =>
    exact ⟨s.deliver (.load .fileNotFound false), fun d => execLoad_notFound (s := s.setDraws d) hsrc⟩
  | stream S =>
    exact ⟨loadStream S s, fun d =>
      execLoad_of_loadStream (s := s.setDraws d) hsrc (loadStream_setDraws S s d)⟩

/-- On a wholly written tape every instruction ignores the draws (41_pulse_player.md R109). -/
theorem exec_ignoresDraws (i : Instr) {s : State} (hs : s.AllFilled) : IgnoresDraws (exec i) s := by
  cases i with
  | load => exact execLoad_ignoresDraws s
  | update => exact execUpdate_ignoresDraws hs
  | save => exact ⟨s.deliver (.save s.cfg.saveErr), fun _ => rfl⟩
  | reset => exact ⟨(s.setCursor 0 1 0).deliver .nothing, fun _ => rfl⟩
  | setbtn m => exact ⟨(s.setMode m).deliver .nothing, fun _ => rfl⟩
  | signals m w => exact ⟨(s.setSigIn (packIn m w)).deliver (.signals s.sigOut), fun _ => rfl⟩
  | pulseShort b => exact ⟨s.loadPulse (shortPulseLength b) 1, fun _ => rfl⟩
  | escV1 b0 b1 b2 => exact ⟨s.loadPulse (escapePulseLength b0 b1 b2) 4, fun _ => rfl⟩
  | escFixed => exact ⟨s.loadPulse fixedPulseLength 1, fun _ => rfl⟩

/-- Settles O51: what an instruction answers from every counter it answers from the state's own, which it keeps. -/
theorem filledTapesNeedNoDraws : Obligations.FilledTapesNeedNoDraws := by
  intro i s d hs
  obtain ⟨t, ht⟩ := exec_ignoresDraws i hs
  exact ⟨t.setDraws s.draws, ht s.draws, rfl, ht d⟩

end Sys2Proof.Machine
end

section
/-!
SUPPORT. Runs of UPDATEs: the end of the tape, one pulse, and the whole tape (41_pulse_player.md R106 to R108).
-/

namespace Sys2Proof.Machine

/-! ## Runs -/

/-- One more UPDATE at the end of a run. -/
theorem updates_succ_of_next {n : Nat} {s t u : State} (h : updates n s = .next t) (hu : execUpdate t = .next u) :
    updates (n + 1) s = .next u := by
  induction n generalizing s with
  | zero => cases h; exact andThen_eq_next.mpr ⟨u, hu, rfl⟩
  | succ n ih =>
    obtain ⟨v, hv, hrest⟩ := andThen_eq_next.mp h
    exact andThen_eq_next.mpr ⟨v, hv, ih hrest⟩

/-- A state that UPDATE answers with itself is what any number of UPDATEs answers. -/
theorem updates_of_fixed {s : State} (h : execUpdate s = .next s) (n : Nat) : updates n s = .next s := by
  induction n with
  | zero => rfl
  | succ n ih => exact updates_succ_of_next ih h

/-- Settles O55: the first UPDATE writes the signals and the result, and every further one writes them again. -/
theorem endOfTapeIsStable : Obligations.EndOfTapeIsStable := by
  intro s n hm hmo hc hend hn
  have hc1 : s.cyclesLeft.toNat ≤ 1 := by simp [hc]
  have hfirst := updateIdlesAtEndOfData s hm hmo hc1 hend
  have hagain := updateIdlesAtEndOfData (s.fetching.deliverUpdate .running) hm hmo (Nat.zero_le 1) hend
  obtain ⟨m, rfl⟩ := Nat.exists_eq_add_of_le' hn
  have hrun : updates (m + 1) s = .next (s.fetching.deliverUpdate .running) :=
    andThen_eq_next.mpr ⟨_, hfirst, updates_of_fixed hagain m⟩
  rw [State.fetching, ← hc] at hrun
  exact hrun

/-! ## One pulse (41_pulse_player.md R106) -/

/-- The state `t` is `j` UPDATEs into the pulse that `s` has just fetched, which is not over: only the counter, the
signals and the result have changed. -/
structure State.InPulse (s : State) (j : Nat) (t : State) : Prop where
  frame : ∃ c g r, t = ((s.setCyclesLeft c).setSigOut g).deliver r
  left : t.cyclesLeft.toNat = s.cyclesLeft.toNat - j
  signals : 1 ≤ j → t.sigOut = packOut true (readLevel t.cyclesLeft s.halfwayCycles)

theorem State.InPulse.start (s : State) : s.InPulse 0 s :=
  ⟨⟨s.cyclesLeft, s.sigOut, s.result, rfl⟩, rfl, by simp⟩

/-- While two or more cycles are left, UPDATE goes one further into the pulse. -/
theorem State.InPulse.succ {s t : State} {j : Nat} (hp : s.Playing) (h : s.InPulse j t)
    (hj : j + 1 < s.cyclesLeft.toNat) :
    ∃ u, execUpdate t = .next u ∧ s.InPulse (j + 1) u := by
  obtain ⟨⟨c, g, r, rfl⟩, hleft, _⟩ := h
  have hleft : c.toNat = s.cyclesLeft.toNat - j := hleft
  have hc : 2 ≤ c.toNat := by omega
  have hsub : (c - 1).toNat = s.cyclesLeft.toNat - (j + 1) := by
    rw [sub_one_toNat hc, hleft, Nat.sub_sub]
  exact ⟨_, execUpdate_countsDown (s := ((s.setCyclesLeft c).setSigOut g).deliver r) hp hc,
    ⟨c - 1, _, _, rfl⟩, hsub, fun _ => rfl⟩

/-- As many UPDATEs as leave a cycle of the pulse stay inside it. -/
theorem updates_inPulse {s : State} (hp : s.Playing) (j : Nat) (hj : j = 0 ∨ j < s.cyclesLeft.toNat) :
    ∃ t, updates j s = .next t ∧ s.InPulse j t := by
  induction j with
  | zero => exact ⟨s, rfl, State.InPulse.start s⟩
  | succ j ih =>
    have hlt : j + 1 < s.cyclesLeft.toNat := by omega
    obtain ⟨t, ht, hin⟩ := ih (.inr (by omega))
    obtain ⟨u, hu, hnext⟩ := hin.succ hp hlt
    exact ⟨u, updates_succ_of_next ht hu, hnext⟩

/-- The fetch before the end of the payload moves the cursor strictly forward, and within the tape. -/
theorem fetchPulse_tapePos_lt {s t : State} (hlt : s.tapePos.toNat < s.tapeLength.toNat)
    (h : fetchPulse s = .next t) :
    s.tapePos.toNat < t.tapePos.toNat ∧ t.tapePos.toNat ≤ s.tapeLength.toNat := by
  rcases fetchPulse_cases s with ⟨hend, _⟩ | ⟨_, k, hf⟩ | ⟨_, y, k, l, _, _, hle, _, hf⟩
  · omega
  · obtain rfl := Host.Outcome.next.inj (h.symm.trans hf)
    exact ⟨hlt, le_refl _⟩
  · obtain rfl := Host.Outcome.next.inj (h.symm.trans hf)
    have hpos := loadPulse_tapePos_toNat (s := { s with draws := k }) l hle
    have hsize := encodeSymbol_length_pos y
    rw [hpos]
    exact ⟨Nat.lt_add_of_pos_right hsize, hle⟩

/-- The UPDATE that ends a pulse: `Read` is off, and the countdown rests or the cursor moves on
(41_pulse_player.md R99). -/
theorem execUpdate_endsPulse {s : State} (hp : s.Playing) (hc : s.cyclesLeft.toNat ≤ 1) :
    ∃ t, execUpdate s = .next t ∧ t.sigOut = 0b01 ∧
      (s.tapeLength.toNat ≤ s.tapePos.toNat → t.cyclesLeft = 0 ∧ t.tapePos = s.tapePos) ∧
      (s.tapePos.toNat < s.tapeLength.toNat →
        s.tapePos.toNat < t.tapePos.toNat ∧ t.tapePos.toNat ≤ s.tapeLength.toNat) := by
  rcases Nat.lt_or_ge s.tapePos.toNat s.tapeLength.toNat with hlt | hend
  · obtain ⟨p, l, h, k, hf, hu⟩ := execUpdate_elapsed hp.1 hp.2 hc
    have hmoves := fetchPulse_tapePos_lt (s := s.fetching) hlt hf
    exact ⟨_, hu, rfl, fun hend => by omega, fun _ => hmoves⟩
  · exact ⟨_, updateIdlesAtEndOfData s hp.1 hp.2 hc hend, rfl, fun _ => ⟨rfl, rfl⟩, fun hlt => by omega⟩

/-- The detector `j` UPDATEs into a pulse of length `L`. -/
theorem readLevel_inPulse_iff {left halfway : Cnt} {L j : Nat} (hleft : left.toNat = L - j)
    (hhalf : halfway.toNat = L / 2) (hj : j < L) : readLevel left halfway = true ↔ L - L / 2 + 1 ≤ j := by
  rw [readLevel, decide_eq_true_eq, BitVec.lt_def, hleft, hhalf]
  omega

/-- Settles O56: `j < L` UPDATEs stay in the pulse; after `L - 1` of them at most one cycle is left, and the next
UPDATE ends the pulse. -/
theorem pulseWaveform : Obligations.PulseWaveform := by
  rintro s L hm hmo rfl hhalf
  have hp : s.Playing := ⟨hm, hmo⟩
  constructor
  · intro j hj1 hjL
    obtain ⟨t, ht, ⟨c, g, r, hframe⟩, hleft, hsig⟩ := updates_inPulse hp j (.inr hjL)
    have hbits := hsig hj1
    refine ⟨t, ht, hleft, by rw [hframe]; rfl, by rw [hframe]; rfl, ?_, ?_⟩
    · rw [hbits]
      exact senseBit_packOut _ _
    · rw [hbits, ← readLevel_inPulse_iff hleft hhalf hjL]
      exact Bool.eq_iff_iff.mp (readBit_packOut _ _)
  · obtain ⟨t, ht, ⟨c, g, r, rfl⟩, hleft, _⟩ := updates_inPulse hp (s.cyclesLeft.toNat - 1) (by omega)
    obtain ⟨u, hu, hoff, hrest, hmoves⟩ :=
      execUpdate_endsPulse (s := ((s.setCyclesLeft c).setSigOut g).deliver r) hp (by omega)
    have hrun := updates_succ_of_next ht hu
    rw [show s.cyclesLeft.toNat - 1 + 1 = max s.cyclesLeft.toNat 1 by omega] at hrun
    exact ⟨u, hrun, by rw [hoff]; rfl, hrest, hmoves⟩

end Sys2Proof.Machine
end

section
/-!
SUPPORT. A wholly loaded tape from its start to its end: the cursor always stands before a sequence of complete
symbols, and every UPDATE takes one from the UPDATEs left (41_pulse_player.md R108).
-/

namespace Sys2Proof.Machine

/-! ## The pulses ahead of the cursor -/

theorem decodesToPulses_nil {ver : Byte} {bytes : List Byte} (h : DecodesToPulses ver bytes []) : bytes = [] := by
  cases h
  rfl

/-- The first of the pulses is that of a symbol at the head of the bytes (30_encoding.md R71 to R73). -/
theorem decodesToPulses_cons {ver : Byte} {bytes : List Byte} {l : Nat} {pulses : List Nat}
    (h : DecodesToPulses ver bytes (l :: pulses)) :
    ∃ y rest, bytes = encodeSymbol y ++ rest ∧ y.wf = true ∧ y.fitsVersion ver = true ∧
      (symbolPulse y).toNat = l ∧ DecodesToPulses ver rest pulses := by
  cases h with
  | short b rest _ hb hrest =>
    have hlt := b.isLt
    exact ⟨.short b, rest, rfl, by simpa [Symbol.wf] using hb, rfl, Nat.mod_eq_of_lt (by omega), hrest⟩
  | escV1 b0 b1 b2 rest _ hv hrest =>
    have h0 := b0.isLt
    have h1 := b1.isLt
    have h2 := b2.isLt
    refine ⟨.escV1 b0 b1 b2, rest, rfl, rfl, by simpa [Symbol.fitsVersion] using hv, ?_, hrest⟩
    rw [symbolPulse, escapePulseLength_eq, BitVec.toNat_ofNat, Nat.mod_eq_of_lt (by omega)]
    omega
  | escFixed rest _ hv hrest =>
    exact ⟨.escFixed, rest, rfl, rfl, by simpa [Symbol.fitsVersion] using hv, rfl, hrest⟩

/-! ## The UPDATEs left -/

/-- The UPDATEs to the end of the tape with `left` on the counter and these pulses ahead of the cursor: a pulse that
another follows takes at least one UPDATE, the last one its length. -/
def updatesLeft (left : Nat) : List Nat → Nat
  | [] => left
  | l :: pulses => max left 1 + updatesLeft l pulses

theorem updatesLeft_eq (left : Nat) (pulses : List Nat) :
    updatesLeft left pulses =
      ((left :: pulses).dropLast.map fun l => max l 1).sum + (left :: pulses).getLast?.getD 0 := by
  induction pulses generalizing left with
  | nil => simp [updatesLeft]
  | cons l pulses ih =>
    simp only [updatesLeft, ih, List.dropLast_cons_cons, List.map_cons, List.sum_cons, List.getLast?_cons_cons]
    omega

/-- The cursor that RESET leaves counts down one cycle before the first fetch (41_pulse_player.md R108). -/
theorem updatesLeft_reset (pulses : List Nat) : updatesLeft 1 pulses = tapeTime pulses := by
  cases pulses with
  | nil => rfl
  | cons l pulses => simp only [updatesLeft, updatesLeft_eq, tapeTime, max_self, Nat.add_assoc]

theorem updatesLeft_eq_zero_iff {left : Nat} {pulses : List Nat} :
    updatesLeft left pulses = 0 ↔ left = 0 ∧ pulses = [] := by
  cases pulses with
  | nil => simp [updatesLeft]
  | cons l pulses => simp [updatesLeft]

/-! ## The invariant of the run -/

/-- The wholly loaded payload `P` plays, and the bytes from the cursor on are the symbols of `pulses`; a cursor that
stands at the start has a fetch before it. -/
structure State.PlaysTape (s : State) (P : List Byte) (pulses : List Nat) : Prop where
  playing : s.Playing
  data : s.tapeData = Memory.ofBytes P
  length : s.tapeLength.toNat = P.length
  filled : s.tapeFilled = s.tapeLength
  within : s.tapePos.toNat ≤ P.length
  ahead : DecodesToPulses s.tapVersion (P.drop s.tapePos.toNat) pulses
  started : s.tapePos.toNat = 0 → s.cyclesLeft.toNat ≤ 1

section PlaysTape

variable {s : State} {P : List Byte} {pulses : List Nat}

/-- The end of data is where no pulse is ahead (10_state.md R30). -/
theorem State.PlaysTape.length_le_iff (h : s.PlaysTape P pulses) :
    s.tapeLength.toNat ≤ s.tapePos.toNat ↔ pulses = [] := by
  rw [h.length, ← List.drop_eq_nil_iff]
  have hahead := h.ahead
  cases pulses with
  | nil => exact iff_of_true (decodesToPulses_nil hahead) rfl
  | cons l rest =>
    obtain ⟨y, tail, hbytes, _⟩ := decodesToPulses_cons hahead
    have hsize := encodeSymbol_length_pos y
    refine iff_of_false (fun hnil => ?_) (by simp)
    have hlen := congrArg List.length (hbytes.symm.trans hnil)
    rw [List.length_append, List.length_nil] at hlen
    omega

theorem State.PlaysTape.atEndOfTape_iff (h : s.PlaysTape P pulses) :
    s.AtEndOfTape ↔ updatesLeft s.cyclesLeft.toNat pulses = 0 := by
  rw [updatesLeft_eq_zero_iff, ← h.length_le_iff, State.AtEndOfTape, endOfData_eq, decide_eq_true_eq,
    ← BitVec.toNat_inj]
  rfl

/-- A written payload holds the bytes of the symbol at the cursor. -/
theorem State.PlaysTape.holds (h : s.PlaysTape P pulses) {bytes rest : List Byte}
    (hbytes : P.drop s.tapePos.toNat = bytes ++ rest) {k : Nat} {b : Byte} (hk : bytes[k]? = some b) :
    s.Holds (s.tapePos.toNat + k) b := by
  have hread : P[s.tapePos.toNat + k]? = some b := by
    obtain ⟨hlt, _⟩ := List.getElem?_eq_some_iff.mp hk
    rw [← List.getElem?_drop, hbytes, List.getElem?_append_left hlt, hk]
  obtain ⟨hlt, _⟩ := List.getElem?_eq_some_iff.mp hread
  refine ⟨by rw [h.length]; exact hlt, by rw [h.filled, h.length]; exact hlt, ?_⟩
  rw [h.data, Memory.read_ofBytes, hread]

/-- What one UPDATE does to the run: it takes one from the UPDATEs left, and leaves the cursor past the start. -/
def State.AdvancesTape (s : State) (P : List Byte) (pulses : List Nat) : Prop :=
  ∃ t ahead, execUpdate s = .next t ∧ t.PlaysTape P ahead ∧
    updatesLeft t.cyclesLeft.toNat ahead = updatesLeft s.cyclesLeft.toNat pulses - 1 ∧
    (1 ≤ P.length → 1 ≤ t.tapePos.toNat)

/-- Inside a pulse the counter takes the UPDATE. -/
theorem State.PlaysTape.advances_inPulse (h : s.PlaysTape P pulses) (hc : 2 ≤ s.cyclesLeft.toNat) :
    s.AdvancesTape P pulses := by
  have hpos : s.tapePos.toNat ≠ 0 := fun h0 => absurd (h.started h0) (by omega)
  refine ⟨_, pulses, execUpdate_countsDown h.playing hc,
    ⟨h.playing, h.data, h.length, h.filled, h.within, h.ahead, fun h0 => absurd h0 hpos⟩, ?_,
    fun _ => Nat.one_le_iff_ne_zero.mpr hpos⟩
  simp only [State.deliverUpdate_cyclesLeft, State.setSigOut_cyclesLeft, State.setCyclesLeft_cyclesLeft,
    sub_one_toNat hc]
  cases pulses with
  | nil => rfl
  | cons l rest => simp only [updatesLeft]; omega

/-- At the end of data the countdown takes it, or has reached its floor. -/
theorem State.PlaysTape.advances_atEnd (h : s.PlaysTape P []) (hc : s.cyclesLeft.toNat ≤ 1) :
    s.AdvancesTape P [] := by
  have hend := h.length_le_iff.mpr rfl
  refine ⟨_, [], updateIdlesAtEndOfData s h.playing.1 h.playing.2 hc hend,
    ⟨h.playing, h.data, h.length, h.filled, h.within, h.ahead, fun _ => Nat.zero_le 1⟩,
    (Nat.sub_eq_zero_of_le hc).symm, fun hP => ?_⟩
  rw [h.length] at hend
  exact hP.trans hend

/-- An elapsed pulse before the end of data: the next symbol is fetched, and its pulse is the first ahead. -/
theorem State.PlaysTape.advances_fetch {l : Nat} (h : s.PlaysTape P (l :: pulses)) (hc : s.cyclesLeft.toNat ≤ 1) :
    s.AdvancesTape P (l :: pulses) := by
  obtain ⟨y, rest, hbytes, hw, hv, hl, hrest⟩ := decodesToPulses_cons h.ahead
  have hsize := encodeSymbol_length_pos y
  have hend : s.tapePos.toNat + (encodeSymbol y).length ≤ P.length := by
    have hlen := congrArg List.length hbytes
    have hwithin := h.within
    rw [List.length_drop, List.length_append] at hlen
    omega
  have hlt : s.tapePos.toNat < s.tapeLength.toNat := by rw [h.length]; omega
  have hy : fetchSymbol s.fetching = .next (some y, s.fetching) :=
    fetchSymbol_of_holds hw hv fun _ _ hk => h.holds hbytes hk
  have hpos : (s.tapePos + BitVec.ofNat 32 (encodeSymbol y).length).toNat =
      s.tapePos.toNat + (encodeSymbol y).length := loadPulse_tapePos_toNat 0 (by rw [h.length]; exact hend)
  have hdrop : P.drop (s.tapePos.toNat + (encodeSymbol y).length) = rest := by
    rw [← List.drop_drop, hbytes, List.drop_left]
  refine ⟨_, pulses, execUpdate_of_fetchSymbol h.playing hc hlt hy,
    ⟨h.playing, h.data, h.length, h.filled, ?_, ?_, ?_⟩, ?_, ?_⟩
  all_goals simp only [hpos, hdrop, hl]
  · exact hend
  · exact hrest
  · omega
  · simp only [updatesLeft]
    omega
  · omega

theorem State.PlaysTape.advances (h : s.PlaysTape P pulses) : s.AdvancesTape P pulses := by
  rcases Nat.lt_or_ge s.cyclesLeft.toNat 2 with hc | hc
  · have hc : s.cyclesLeft.toNat ≤ 1 := Nat.le_of_lt_succ hc
    cases pulses with
    | nil => exact h.advances_atEnd hc
    | cons l rest => exact h.advances_fetch hc
  · exact h.advances_inPulse hc

/-- An UPDATE on a tape that is not empty returns the cursor it leaves (41_pulse_player.md R104). -/
theorem State.PlaysTape.result {t : State} {ahead : List Nat} (h : s.PlaysTape P pulses) (ht : t.PlaysTape P ahead)
    (hu : execUpdate s = .next t) (hP : 1 ≤ P.length) : t.result = .update (.pos t.tapePos) .running := by
  have hlen : t.tapeLength ≠ 0 := by
    intro h0
    have hlength := ht.length
    simp only [h0, BitVec.ofNat_eq_ofNat, BitVec.toNat_zero] at hlength
    omega
  rw [result_of_execUpdate_play h.playing.1 hu, updatePos_of_tapeLength_ne_zero hlen]

/-- After `n` UPDATEs the tape still plays, with `n` fewer UPDATEs left. -/
theorem State.PlaysTape.after_updates (h : s.PlaysTape P pulses) (n : Nat) :
    ∃ t ahead, updates n s = .next t ∧ t.PlaysTape P ahead ∧
      updatesLeft t.cyclesLeft.toNat ahead = updatesLeft s.cyclesLeft.toNat pulses - n ∧
      (1 ≤ n → 1 ≤ P.length → t.result = .update (.pos t.tapePos) .running ∧ 1 ≤ t.tapePos.toNat) := by
  induction n with
  | zero => exact ⟨s, pulses, rfl, h, rfl, by omega⟩
  | succ n ih =>
    obtain ⟨t, ahead, ht, hplays, hleft, _⟩ := ih
    obtain ⟨u, rest, hu, hnext, hone, hpos⟩ := hplays.advances
    refine ⟨u, rest, updates_succ_of_next ht hu, hnext, ?_, fun _ hP => ⟨hplays.result hnext hu hP, hpos hP⟩⟩
    rw [hone, hleft, Nat.sub_sub]

end PlaysTape

/-- Settles O57: the cursor RESET leaves stands before all the pulses with one cycle on the counter, every UPDATE
takes one from the UPDATEs left, and the end of the tape is where none is left. -/
theorem tapePlaysToItsEnd : Obligations.TapePlaysToItsEnd := by
  intro s P pulses hm hmo hlt hdata hlength hfilled hcursor hdecodes n
  simp only [State.cursor, Prod.mk.injEq] at hcursor
  obtain ⟨hpos, hleft, _⟩ := hcursor
  have hlen : s.tapeLength.toNat = P.length := by rw [hlength, BitVec.toNat_ofNat, Nat.mod_eq_of_lt hlt]
  have hstart : s.PlaysTape P pulses :=
    ⟨⟨hm, hmo⟩, hdata, hlen, hfilled, by simp [hpos], by simpa [hpos] using hdecodes, by simp [hleft]⟩
  obtain ⟨t, ahead, ht, hplays, hcount, hresult⟩ := hstart.after_updates n
  have htime : updatesLeft s.cyclesLeft.toNat pulses = tapeTime pulses := by
    rw [hleft]
    exact updatesLeft_reset pulses
  refine ⟨t, ht, ?_, fun hn hP => ?_⟩
  · rw [hplays.atEndOfTape_iff, hcount, htime, Nat.sub_eq_zero_iff_le]
  · obtain ⟨hr, hone⟩ := hresult hn hP
    exact ⟨t.tapePos, hr, hone, hplays.within⟩

end Sys2Proof.Machine
end

section
/-!
SUPPORT. The interface commands RESET, SETBTN and SIGNALS (42_interface.md R110 to R113).
-/

namespace Sys2Proof.Machine

/-- Settles O20: RESET is one write of the cursor, and it delivers nothing. -/
theorem resetSetsTheCursorOnly : Obligations.ResetSetsTheCursorOnly := by
  intro s
  rfl

/-- Settles O21: the second RESET writes the cursor and the result that already stand there. -/
theorem resetTwiceIsResetOnce : Obligations.ResetTwiceIsResetOnce := by
  intro s
  exact ⟨_, resetSetsTheCursorOnly s, resetSetsTheCursorOnly _⟩

/-- Settles O22: SETBTN is one write of the mode, the same for every mode, and it delivers nothing. -/
theorem setbtnWritesTheModeOnly : Obligations.SetbtnWritesTheModeOnly := by
  intro s m
  rfl

/-- Settles O23: the flags are stored as their packed pair, whose bits are Motor and Write; the device's flags are
read before the write. -/
theorem signalsExchangesTheFlags : Obligations.SignalsExchangesTheFlags := by
  intro s motor write
  exact ⟨packIn motor write, motorBit_packIn motor write, writeBit_packIn motor write, rfl⟩

/-- Settles O24: SETBTN writes the mode alone, and UPDATE outside Play touches only the device's signals and the
result, so none of the three commands writes the cursor, the tape or the host's flags. -/
theorem modeChangeKeepsTheCursor : Obligations.ModeChangeKeepsTheCursor := by
  intro s m hm
  obtain ⟨g, r, hu⟩ := execUpdate_notPlay (s := { s with mode := m, result := .nothing }) hm
  exact ⟨_, _, _, setbtnWritesTheModeOnly s m, hu, setbtnWritesTheModeOnly _ .play, rfl, rfl, rfl, rfl⟩

end Sys2Proof.Machine
end

section
/-!
SUPPORT. Completion (60_exceptions.md R117, R126, R130): every instruction answers next and leaves the queue and the
mark of refusals alone, so what a step does to the two is what the command port does.
-/

namespace Sys2Proof.Machine

/-! ## Every instruction completes -/

/-- Every instruction answers next; it issues no operation and refuses none (60_exceptions.md R117, R130). -/
theorem exec_next_keeps_queue (i : Instr) (s : State) :
    ∃ t, exec i s = .next t ∧ t.pending = s.pending ∧ t.refusals = s.refusals := by
  cases i with
  | load =>
    obtain ⟨m, l, f, v, r, h⟩ := execLoad_next s
    exact ⟨_, h, rfl, rfl⟩
  | update =>
    obtain ⟨p, l, h, k, g, r, hu⟩ := execUpdate_next s
    exact ⟨_, hu, rfl, rfl⟩
  | save | reset | setbtn | signals | pulseShort | escV1 | escFixed => exact ⟨_, rfl, rfl, rfl⟩

/-- Settles O46: of what each instruction answers, only that it is a next state. -/
theorem everyInstructionCompletes : Obligations.EveryInstructionCompletes := by
  intro i s
  obtain ⟨t, ht, _⟩ := exec_next_keeps_queue i s
  exact ⟨t, ht⟩

/-! ## What a step does to the queue and to the mark of refusals -/

/-- A step answers next, since the operation that it runs completes (60_exceptions.md R130). -/
theorem step_next (s : State) : ∃ t, step s = .next t := by
  cases hp : s.pending with
  | nil => exact ⟨s, stepIdlesWithoutACommand s hp⟩
  | cons r rest =>
    cases hd : decodeCommand r.cmd with
    | error e => exact ⟨_, step_of_decode_error hp hd⟩
    | ok i =>
      rw [step_of_fetch_command (fetchCommand_of_decode_ok hp hd)]
      exact everyInstructionCompletes i (s.accept r rest)

/-- What a step leaves issued and refused: the oldest word issued, if there is one, leaves the queue, and it joins the
refusals where it does not decode (60_exceptions.md R130, log 2 and 10). -/
theorem step_queue_cases {s t : State} (h : step s = .next t) :
    (s.pending = [] ∧ t.pending = [] ∧ t.refusals = s.refusals) ∨
    ∃ r rest, s.pending = r :: rest ∧ t.pending = rest ∧
      ((∃ i, decodeCommand r.cmd = .ok i ∧ t.refusals = s.refusals) ∨
        ∃ e, decodeCommand r.cmd = .error e ∧ t.refusals = s.refusals ++ [⟨r.cmd, e⟩]) := by
  rcases step_next_cases h with ⟨hp, rfl⟩ | ⟨r, rest, e, hp, hd, rfl⟩ | ⟨i, r, rest, hp, hd, hexec⟩
  · exact .inl ⟨hp, hp, rfl⟩
  · exact .inr ⟨r, rest, hp, rfl, .inr ⟨e, hd, rfl⟩⟩
  · obtain ⟨u, hu, hpend, href⟩ := exec_next_keeps_queue i (s.accept r rest)
    obtain rfl := Host.Outcome.next.inj (hexec.symm.trans hu)
    exact .inr ⟨r, rest, hp, hpend, .inl ⟨i, hd, href⟩⟩

/-- A step never takes back a refusal (60_exceptions.md R130 (b)). -/
theorem step_refusals_prefix {s t : State} (h : step s = .next t) : s.refusals <+: t.refusals := by
  rcases step_queue_cases h with ⟨_, _, href⟩ | ⟨r, rest, _, _, ⟨i, _, href⟩ | ⟨e, _, href⟩⟩
  all_goals rw [href]
  · exact List.prefix_append _ _

/-- A step refuses nothing exactly where the oldest word issued, if there is one, decodes (60_exceptions.md R130). -/
theorem step_refusals_eq_iff {s t : State} (h : step s = .next t) :
    t.refusals = s.refusals ↔ ∀ r rest, s.pending = r :: rest → ∃ i, decodeCommand r.cmd = .ok i := by
  rcases step_queue_cases h with ⟨hp, _, href⟩ | ⟨r, rest, hp, _, ⟨i, hd, href⟩ | ⟨e, hd, href⟩⟩
  · simp [hp, href]
  · simp [hp, hd, href]
  · simp [hp, hd, href]

/-- What is still issued after a step was issued before it. -/
theorem step_pending_subset {s t : State} (h : step s = .next t) : t.pending ⊆ s.pending := by
  rcases step_queue_cases h with ⟨_, hpend, _⟩ | ⟨r, rest, hp, hpend, _⟩
  · simp [hpend]
  · simp [hp, hpend]

/-- Settles O59: the step takes a word off the queue and adds none, so what is left issued still decodes; and the
oldest word decodes, so it is not refused. -/
theorem stepKeepsIssuedCommandsDecodable : Obligations.StepKeepsIssuedCommandsDecodable := by
  intro s hs
  obtain ⟨t, ht⟩ := step_next s
  have hhead : ∀ r rest, s.pending = r :: rest → ∃ i, decodeCommand r.cmd = .ok i :=
    fun r rest hp => hs r (hp ▸ List.mem_cons_self)
  exact ⟨t, ht, fun q hq => hs q (step_pending_subset ht hq), (step_refusals_eq_iff ht).mpr hhead⟩

/-- Settles O54, by induction on the number of steps, from every state: each step answers next, keeps the refusals
before it as the first ones, and where all that is issued decodes it refuses nothing and keeps it so. -/
theorem runsOfIssuedCommandsNeverStop : Obligations.RunsOfIssuedCommandsNeverStop := by
  intro s k
  induction k generalizing s with
  | zero => exact ⟨s, rfl, List.prefix_refl _, fun _ => rfl⟩
  | succ k ih =>
    obtain ⟨t, ht⟩ := step_next s
    obtain ⟨u, hrun, hprefix, hnone⟩ := ih t
    refine ⟨u, (core_run_of_next k ht).trans hrun, (step_refusals_prefix ht).trans hprefix, fun hs => ?_⟩
    obtain ⟨t', ht', hdecode, hkept⟩ := stepKeepsIssuedCommandsDecodable s hs
    obtain rfl := Host.Outcome.next.inj (ht.symm.trans ht')
    exact (hnone hdecode).trans hkept

/-- Settles O60: the refusal takes one word off the queue and lists it, so the next step accepts the word after it. -/
theorem refusalIsStickyAndTheRunGoesOn : Obligations.RefusalIsStickyAndTheRunGoesOn := by
  intro s
  obtain ⟨t, ht⟩ := step_next s
  refine ⟨t, ht, step_refusals_prefix ht, step_refusals_eq_iff ht, fun r q rest e i hp hr hq => ?_⟩
  obtain rfl : t = s.refuse r (q :: rest) e := Host.Outcome.next.inj (ht.symm.trans (step_of_decode_error hp hr))
  exact stepRunsTheDecodedCommand (s.refuse r (q :: rest) e) q rest i rfl hq

/-! ## The signals after UPDATE -/

/-- Where UPDATE only sets `Sense`, `Read` is held (10_state.md R26). -/
theorem execUpdate_bits_of_setSense {s : State} {b : Bool} {h : HandlerStatus}
    (hu : execUpdate s = .next ((s.setSense b).deliverUpdate h)) :
    ∃ t, execUpdate s = .next t ∧ senseBit t.sigOut = b ∧ readBit t.sigOut = readBit s.sigOut :=
  ⟨_, hu, senseBit_withSense b s.sigOut, readBit_withSense b s.sigOut⟩

/-- While the deck plays, `Sense` is on after UPDATE (41_pulse_player.md R95). -/
theorem execUpdate_sense_of_play {s : State} (hm : s.mode = .play) :
    ∃ t, execUpdate s = .next t ∧ senseBit t.sigOut = true := by
  obtain ⟨p, l, h, k, r, hp⟩ := playCycle_next s
  exact ⟨_, execUpdate_play hm hp, senseBit_packOut true r⟩

/-- Settles O40, by the mode: Done clears both bits, Play with the motor on sets `Sense` and may write `Read`, and
every other arm sets `Sense` alone. -/
theorem updateGatesTheSignalsByMode : Obligations.UpdateGatesTheSignalsByMode := by
  intro s
  cases hm : s.mode with
  | done => exact ⟨_, execUpdate_done hm, senseBit_zero, fun _ => readBit_zero, fun hne => absurd rfl hne⟩
  | record =>
    obtain ⟨t, hu, hsense, hread⟩ := execUpdate_bits_of_setSense (execUpdate_record hm)
    exact ⟨t, hu, hsense, by simp, fun _ _ => hread⟩
  | none | stop | pause =>
    obtain ⟨t, hu, hsense, hread⟩ := execUpdate_bits_of_setSense (execUpdate_stopped (s := s) (by simp [hm]))
    exact ⟨t, hu, hsense, by simp, fun _ _ => hread⟩
  | play =>
    cases hmo : s.motor with
    | false =>
      obtain ⟨t, hu, hsense, hread⟩ := execUpdate_bits_of_setSense (execUpdate_stalled hm hmo)
      exact ⟨t, hu, hsense, by simp, fun _ _ => hread⟩
    | true =>
      obtain ⟨t, hu, hsense⟩ := execUpdate_sense_of_play hm
      exact ⟨t, hu, hsense, by simp, fun _ hstalled => absurd ⟨rfl, hmo⟩ hstalled⟩

end Sys2Proof.Machine
end

section
/-!
SUPPORT. The registers at power-on (70_reset_and_hazards.md R131).
-/

namespace Sys2Proof.Machine

/-- Settles O45, register by register: `State.reset` is a closed record, and each row of R131's table is the
definition of its field. -/
theorem powerOnResetState : Obligations.PowerOnResetState := by
  refine ⟨?tapeData, ?tapeLength, ?tapeFilled, ?tapVersion, ?tapePos, ?cyclesLeft, ?halfwayCycles, ?mode, ?sigOut,
    ?sigIn⟩
  case tapeData | tapeLength | tapeFilled | tapVersion => rfl
  case tapePos | cyclesLeft | halfwayCycles => rfl
  case mode => rfl
  case sigOut | sigIn => rfl

end Sys2Proof.Machine
end
